-- ==== Sys2Proof/Word.lean ====
section
/-! DEFINITION. The words of the block: bytes, byte strings, colours and colour numbers
(spec/00_scope.md R10, R11). -/

namespace Sys2Proof

/-- One byte of cell memory or of the output stream. -/
abbrev Byte := BitVec 8

/-- A byte string, first byte first (R11). -/
abbrev Bytes := List Byte

/-- A 24-bit colour: red `[23:16]`, green `[15:8]`, blue `[7:0]` (R11). -/
abbrev Colour := BitVec 24

/-- A colour number 0..15 into the colour table `PAL`; 0 is "transparent" (R13, R32). -/
abbrev ColourNo := BitVec 4

end Sys2Proof
end

