-- ==== Sys2Proof/Syntax.lean ====
section
/-! DEFINITION. The instructions: one constructor per row of spec/opcode_table.json, and the host's
accesses (spec/30_encoding.md R98, spec/70_reset_and_hazards.md R301). -/

namespace Sys2Proof

/-- One LZW code with the width in bits it is written with (R211: `out` appends the pair). -/
structure Code where
  code : BitVec 12
  width : BitVec 4
  deriving DecidableEq, Repr

/-- The operations of the block, in the order of spec/opcode_table.json. A `PHASE` operation has no
operand bits; a datapath function carries the operands its rule gives it (log 4). -/
inductive Instr where
  /-- `WRITE` (R246): the host command, with the `FMT` field of the `CMD` byte. -/
  | write (fmt : BitVec 2)
  /-- `IDLE` (PHASE 0x00). -/
  | idle
  /-- `VALIDATE` (R116). -/
  | validate
  /-- `RASTER` (R120), for frame `FI`. -/
  | raster
  /-- `ASSEMBLE` (R145). -/
  | assemble
  /-- `SIG` (R164). -/
  | sig
  /-- `IHDR` (R165). -/
  | ihdr
  /-- `PLTE` (R166). -/
  | plte
  /-- `tRNS` (R167). -/
  | trns
  /-- `acTL` (R168). -/
  | actl
  /-- `fcTL` (R169), for sub-frame `K`. -/
  | fctl
  /-- `IDAT` (R172). -/
  | idat
  /-- `fdAT` (R173), for sub-frame `K`. -/
  | fdat
  /-- `IEND` (R175). -/
  | iend
  /-- `GHDR` (R200). -/
  | ghdr
  /-- `LSD` (R201). -/
  | lsd
  /-- `GCT` (R202). -/
  | gct
  /-- `APPEXT` (R204). -/
  | appext
  /-- `GCE` (R206), for sub-frame `K`. -/
  | gce
  /-- `IMGDESC` (R207), for sub-frame `K`. -/
  | imgdesc
  /-- `IMGDATA` (R208), for sub-frame `K`. -/
  | imgdata
  /-- `TRAILER` (R216). -/
  | trailer
  /-- `FINISH` (R251). -/
  | finish
  /-- `ATTRDEC` (R110). -/
  | attrdec (attr : Byte)
  /-- `PIXSEL.none` (R113). -/
  | pixselNone (inkBit maskBit : Bool) (paper ink : ColourNo)
  /-- `PIXSEL.orand` (R114). -/
  | pixselOrand (inkBit maskBit : Bool) (paper ink : ColourNo)
  /-- `PIXSEL.andor` (R115). -/
  | pixselAndor (inkBit maskBit : Bool) (paper ink : ColourNo)
  /-- `PALADD` (R141). -/
  | paladd (c : ColourNo)
  /-- `INDEXMAP` (R144). -/
  | indexmap (c : ColourNo)
  /-- `CRC32` (R162). -/
  | crc32 (b : Bytes)
  /-- `CHUNK` (R163); the four type bytes are the big-endian bytes of `type`. -/
  | chunk (type : BitVec 32) (data : Bytes)
  /-- `PACKSCAN` (R177). -/
  | packscan (k : BitVec 8) (d : BitVec 4)
  /-- `DEFLATE` (R176). -/
  | deflate (level : BitVec 4) (raw : Bytes)
  /-- `LZW` (R210 to R213). -/
  | lzw (pixels : List (BitVec 8)) (m : BitVec 4)
  /-- `BITPACK` (R214). -/
  | bitpack (codes : List Code)
  /-- `SUBBLOCK` (R215). -/
  | subblock (bytes : Bytes)
  deriving DecidableEq, Repr

/-- The bits an operation is selected by, with the space they belong to: the `CMD` byte (R97), the
`PHASE` code (R98), the attribute byte (R71), and the effective mask mode that selects a `PIXSEL`
row together with the operands that come with it (R113 to R115). -/
inductive Encoded where
  | cmd (v : Byte)
  | phase (code : BitVec 6)
  | attrByte (attr : Byte)
  | pixsel (mode : BitVec 2) (inkBit maskBit : Bool) (paper ink : ColourNo)
  deriving DecidableEq, Repr

/-- Why bits decode to no operation. -/
inductive DecodeError where
  /-- `CMD.OP` other than 1: the write is ignored (R23, R100). Safe: the spec's own rule. -/
  | reservedOp (op : BitVec 4)
  /-- A `PHASE` value outside R98, which no rule assigns (R100). Safe: nothing runs. -/
  | unassignedPhase (code : BitVec 6)
  /-- An effective mask mode of 3, which no register can hold (R31). Safe: nothing runs. -/
  | reservedMode (mode : BitVec 2)
  deriving DecidableEq, Repr

/-- One entry of the host's access queue (log 2): an access of R301, or how long the host lets the
sequencer run before its next access. -/
inductive HostReq where
  /-- A write of `v` to control register number `reg` (R22). -/
  | write (reg : Nat) (v : BitVec 32)
  /-- A read of control register number `reg` (R22). -/
  | read (reg : Nat)
  /-- `MemWrite(addr, n, v)`: a host write to cell memory (R12, R52). -/
  | memWrite (addr : Nat) (bytes : Bytes)
  /-- A read of the output stream `OUT` (R41). -/
  | readOut
  /-- The reset input is asserted (R290). -/
  | reset
  /-- The sequencer performs one operation before the host's next access. -/
  | tick
  /-- The sequencer performs operations until `STATUS.STATE` is not BUSY. -/
  | wait
  deriving DecidableEq, Repr

end Sys2Proof
end

