-- ==== Sys2Proof/Decode.lean ====
section
/-! DEFINITION. The decoder and the encoder: the `CMD` byte (spec/30_encoding.md R97), the `PHASE`
code table (R98), the attribute byte (R71) and the mask mode (spec/10_state.md R30). -/

namespace Sys2Proof

/-! The `PHASE` codes of R98. -/

def phaseIdle : BitVec 6 := 0x00
def phaseValidate : BitVec 6 := 0x01
def phaseRaster : BitVec 6 := 0x02
def phaseAssemble : BitVec 6 := 0x03
def phaseSig : BitVec 6 := 0x10
def phaseIhdr : BitVec 6 := 0x11
def phasePlte : BitVec 6 := 0x12
def phaseTrns : BitVec 6 := 0x13
def phaseActl : BitVec 6 := 0x14
def phaseFctl : BitVec 6 := 0x15
def phaseIdat : BitVec 6 := 0x16
def phaseFdat : BitVec 6 := 0x17
def phaseIend : BitVec 6 := 0x18
def phaseGhdr : BitVec 6 := 0x20
def phaseLsd : BitVec 6 := 0x21
def phaseGct : BitVec 6 := 0x22
def phaseAppext : BitVec 6 := 0x23
def phaseGce : BitVec 6 := 0x24
def phaseImgdesc : BitVec 6 := 0x25
def phaseImgdata : BitVec 6 := 0x26
def phaseTrailer : BitVec 6 := 0x27
def phaseFinish : BitVec 6 := 0x3F

/-- The operation a `PHASE` code names (R98); any other value is unassigned (R100). -/
def decodePhase (code : BitVec 6) : Except DecodeError Instr :=
  match code.toNat with
  | 0x00 => .ok .idle
  | 0x01 => .ok .validate
  | 0x02 => .ok .raster
  | 0x03 => .ok .assemble
  | 0x10 => .ok .sig
  | 0x11 => .ok .ihdr
  | 0x12 => .ok .plte
  | 0x13 => .ok .trns
  | 0x14 => .ok .actl
  | 0x15 => .ok .fctl
  | 0x16 => .ok .idat
  | 0x17 => .ok .fdat
  | 0x18 => .ok .iend
  | 0x20 => .ok .ghdr
  | 0x21 => .ok .lsd
  | 0x22 => .ok .gct
  | 0x23 => .ok .appext
  | 0x24 => .ok .gce
  | 0x25 => .ok .imgdesc
  | 0x26 => .ok .imgdata
  | 0x27 => .ok .trailer
  | 0x3F => .ok .finish
  | _ => .error (.unassignedPhase code)

/-- The field `OP = v[3:0]` of a `CMD` byte (R97). -/
def cmdOp (v : Byte) : BitVec 4 := v.extractLsb' 0 4

/-- The field `FMT = v[5:4]` of a `CMD` byte (R97). -/
def cmdFmt (v : Byte) : BitVec 2 := v.extractLsb' 4 2

/-- What a host write of `v` to `CMD` asks for: `WRITE` when `OP = 1`, nothing otherwise; `v[7:6]`
is ignored (R23, R97). -/
def decodeCmd (v : Byte) : Except DecodeError Instr :=
  if cmdOp v = 1 then .ok (.write (cmdFmt v)) else .error (.reservedOp (cmdOp v))

/-- The `PIXSEL` row that an effective mask mode selects (R113 to R115, R119). -/
def decodePixsel (mode : BitVec 2) (inkBit maskBit : Bool) (paper ink : ColourNo) :
    Except DecodeError Instr :=
  match mode.toNat with
  | 0 => .ok (.pixselNone inkBit maskBit paper ink)
  | 1 => .ok (.pixselOrand inkBit maskBit paper ink)
  | 2 => .ok (.pixselAndor inkBit maskBit paper ink)
  | _ => .error (.reservedMode mode)

/-- The decoder: total on any bits of any of the spaces, rejecting by name. -/
def decode : Encoded → Except DecodeError Instr
  | .cmd v => decodeCmd v
  | .phase code => decodePhase code
  | .attrByte attr => .ok (.attrdec attr)
  | .pixsel mode inkBit maskBit paper ink => decodePixsel mode inkBit maskBit paper ink

/-- The encoder: the bits of an operation, or none for a datapath function that has no code (R98:
"have no code"). The ignored bits `v[7:6]` of `CMD` are written 0. -/
def encode : Instr → Option Encoded
  | .write fmt => some (.cmd (BitVec.append (0 : BitVec 2) (BitVec.append fmt (1 : BitVec 4))))
  | .idle => some (.phase phaseIdle)
  | .validate => some (.phase phaseValidate)
  | .raster => some (.phase phaseRaster)
  | .assemble => some (.phase phaseAssemble)
  | .sig => some (.phase phaseSig)
  | .ihdr => some (.phase phaseIhdr)
  | .plte => some (.phase phasePlte)
  | .trns => some (.phase phaseTrns)
  | .actl => some (.phase phaseActl)
  | .fctl => some (.phase phaseFctl)
  | .idat => some (.phase phaseIdat)
  | .fdat => some (.phase phaseFdat)
  | .iend => some (.phase phaseIend)
  | .ghdr => some (.phase phaseGhdr)
  | .lsd => some (.phase phaseLsd)
  | .gct => some (.phase phaseGct)
  | .appext => some (.phase phaseAppext)
  | .gce => some (.phase phaseGce)
  | .imgdesc => some (.phase phaseImgdesc)
  | .imgdata => some (.phase phaseImgdata)
  | .trailer => some (.phase phaseTrailer)
  | .finish => some (.phase phaseFinish)
  | .attrdec attr => some (.attrByte attr)
  | .pixselNone inkBit maskBit paper ink => some (.pixsel 0 inkBit maskBit paper ink)
  | .pixselOrand inkBit maskBit paper ink => some (.pixsel 1 inkBit maskBit paper ink)
  | .pixselAndor inkBit maskBit paper ink => some (.pixsel 2 inkBit maskBit paper ink)
  | .paladd _ | .indexmap _ | .crc32 _ | .chunk _ _ | .packscan _ _ | .deflate _ _ | .lzw _ _
  | .bitpack _ | .subblock _ => none

/-- A table word as bits of one of the two numbered spaces: a `PHASE` code where it is an assigned
one, else a `CMD` byte. The two spaces share bytes (0x01 is both VALIDATE and WRITE default); here
the `PHASE` reading comes first. DESIGN CHOICE (log 3). -/
def tableEncoded (w : Nat) : Option Encoded :=
  if w < 64 then
    match decodePhase (BitVec.ofNat 6 w) with
    | .ok _ => some (.phase (BitVec.ofNat 6 w))
    | .error _ => some (.cmd (BitVec.ofNat 8 w))
  else if w < 256 then some (.cmd (BitVec.ofNat 8 w))
  else none

/-- The instruction the decoder reads from a word of spec/opcode_table.json. Every numbered row has
one byte, whatever `nbits` is. -/
def decodeTableWord (_nbits w : Nat) : Option Instr :=
  match tableEncoded w with
  | some e => (match decode e with | .ok i => some i | .error _ => none)
  | none => none

end Sys2Proof
end

