-- ==== Sys2Proof/Machine/Bytes.lean ====
section
/-! DEFINITION. Byte encodings of numbers and colours (spec/00_scope.md R11, spec/20_memory.md R55). -/

namespace Sys2Proof.Machine

/-- `be16(v)`: two bytes, most significant first (R11). -/
def be16 (v : BitVec 16) : Bytes := [v.extractLsb' 8 8, v.extractLsb' 0 8]

/-- `be32(v)`: four bytes, most significant first (R11). -/
def be32 (v : BitVec 32) : Bytes :=
  [v.extractLsb' 24 8, v.extractLsb' 16 8, v.extractLsb' 8 8, v.extractLsb' 0 8]

/-- `le16(v)`: two bytes, least significant first (R11). -/
def le16 (v : BitVec 16) : Bytes := [v.extractLsb' 0 8, v.extractLsb' 8 8]

/-- `rgb(c)`: red, green, blue (R11). -/
def rgb (c : Colour) : Bytes := [c.extractLsb' 16 8, c.extractLsb' 8 8, c.extractLsb' 0 8]

/-- `byte(n)` of a number that the rules keep below 256. -/
def byteOf (n : Nat) : Byte := BitVec.ofNat 8 n

end Sys2Proof.Machine
end

