-- ==== Sys2Proof/Config.lean ====
section
/-! DEFINITION. What an implementation fixes: the parameters of spec/00_scope.md R9, the external
DEFLATE port, and the free values, which are opaque constants with no body. -/

namespace Sys2Proof.Machine

/-- `FD[i]`, a frame descriptor (R30). -/
structure FrameDesc where
  cellBase : BitVec 32
  rows : BitVec 8
  cols : BitVec 8
  scale : BitVec 8
  maskMode : BitVec 2
  cropX : BitVec 16
  cropY : BitVec 16
  cropW : BitVec 16
  cropH : BitVec 16
  delay : BitVec 16
  offX : BitVec 16
  offY : BitVec 16
  deriving DecidableEq, Repr

/-- A descriptor with every field 0, which the initial contents of `FD` name where they name no other
(log 7). -/
def FrameDesc.blank : FrameDesc :=
  { cellBase := 0, rows := 0, cols := 0, scale := 0, maskMode := 0, cropX := 0, cropY := 0,
    cropW := 0, cropH := 0, delay := 0, offX := 0, offY := 0 }

end Sys2Proof.Machine

namespace Sys2Proof.Config

open Sys2Proof.Machine (FrameDesc)

/-- What is attached to the DEFLATE port (R176): the external compressor, or the stored-block
instance of spec/93_implementation_defined.md G4 that the spec's test vectors use (log 12). -/
inductive DeflatePort where
  | external
  | stored
  deriving DecidableEq, Repr

/-- The sentinel condition of R33 on a colour table: entry 0 differs from each of the others. -/
def sentinelHolds (pal : Vector Colour 16) : Bool := pal.toList.tail.all fun c => c ≠ pal.head

/-- The parameters R9 leaves to the implementation, each "an argument of the model", with the bounds
R9 puts on them. They are held in the state, unchanged by every step, so that a statement about every
state is about every value of them (log 5). -/
structure Params where
  /-- `PAL_DEFAULT[0..15]`, the reset value of the colour registers. -/
  palDefault : Vector Colour 16
  /-- `NF_MAX`, the depth of the frame descriptor table, 1..255. -/
  nfMax : BitVec 8
  /-- `CELLMEM_SIZE`, the number of bytes of cell memory. -/
  cellMemSize : Nat
  /-- `GIF_DISPOSAL`, the disposal method of every graphic control extension (D16). -/
  gifDisposal : BitVec 3
  /-- What answers the DEFLATE port. -/
  port : DeflatePort
  /-- The initial contents of `FD[0], FD[1], ...`, the `parameter` that U1 of
  spec/93_implementation_defined.md allows; descriptors beyond the list are blank (log 7). -/
  fdReset : List FrameDesc
  /-- R9, R33: `PAL_DEFAULT` meets the sentinel condition. -/
  palDefault_sentinel : sentinelHolds palDefault = true := by decide
  /-- R9: `NF_MAX` is at least 1. -/
  nfMax_pos : nfMax ≠ 0 := by decide
  /-- R31: no descriptor holds `MASK_MODE = 3`. -/
  fdReset_legal : (fdReset.all fun f => f.maskMode ≠ 3) = true := by decide
  deriving DecidableEq, Repr

/-- `PAL_EX`, the example colours of spec/93_implementation_defined.md G1. -/
def palEx : Vector Colour 16 :=
  #v[0x00FE00, 0x000000, 0x0000C5, 0xC50000, 0xC500C5, 0x00C600, 0x00C6C5, 0xC5C600,
     0xCDC6CD, 0x0000FF, 0xFF0000, 0xFF00FF, 0x00FF00, 0x00FFFF, 0xFFFF00, 0xFFFFFF]

/-- The parameters of the machine that `State.reset` describes. PRESUMED (`palDefault`, log 6) and
DESIGN CHOICE (the others, log 5): the spec leaves them open. -/
def Params.reset : Params :=
  { palDefault := palEx
    nfMax := 255
    cellMemSize := 2 ^ 32
    gifDisposal := 1
    port := .external
    fdReset := [] }

/-- The number of bytes that suffice for stored blocks of `n` bytes
(spec/93_implementation_defined.md G4): 5 for each block, the 2 header bytes and the checksum. -/
def storedLength (n : Nat) : Nat := n + 5 * (n / 65535 + 1) + 6

/-- A pixel stream from the bytes of its scanlines: each after its filter byte 00 (R82). -/
def scanlines (rows : List Bytes) : Bytes := rows.flatMap (0x00 :: ·)

/-- Whether `raw` has the form of the pixel stream of a sub-frame (R177) at a depth of at most 4, which
is every depth that the 15 colours and the sentinel of R38 need (R165): at most 65535 scanlines, each
the filter byte 00 and then the same number of bytes, at most 32768 (65535 pixels of 4 bits). -/
def Scanlines (raw : Bytes) : Prop :=
  ∃ (rows : List Bytes) (m : Nat), rows.length ≤ 65535 ∧ m ≤ 32768 ∧ (∀ r ∈ rows, r.length = m) ∧
    raw = scanlines rows

/-- A compressor with the obligations (a) to (c) of R176, which is what the DEFLATE port asks of what
answers it. -/
structure Codec where
  /-- (a) `DEFLATE(level, raw)`, a function of its two operands. -/
  deflate : BitVec 4 → Bytes → Bytes
  /-- `Inflate`, which does not depend on the level. -/
  inflate : Bytes → Bytes
  /-- (b) The round trip, at every level of 0..9. -/
  roundTrip : ∀ (level : BitVec 4) (raw : Bytes), level.toNat ≤ 9 → inflate (deflate level raw) = raw
  /-- (c) The chunk length fits, for every pixel stream of the block, and for every other byte string
  whose stored blocks would fit. For all byte strings no function has both (b) and (c) (log 11). -/
  fits : ∀ (level : BitVec 4) (raw : Bytes), level.toNat ≤ 9 →
    (Scanlines raw ∨ storedLength raw.length + 4 < 2 ^ 31) → (deflate level raw).length + 4 < 2 ^ 31

/-- The external compressor (R176) is what this function answers for one particular codec: some
`Codec`, and nothing else is known of it. The argument is there because Lean asks for a proof that
there is one (log 11). -/
opaque externalFrom : Function.End Codec

/-- Free value: the grid element in a row and a column that nothing has written (log 15). -/
opaque gridUnwritten : Nat → Nat → ColourNo

/-- Free value: the element of a sub-frame's `IDX` in a row and a column that nothing has written
(log 15). -/
opaque indexUnwritten : Nat → Nat → BitVec 8

/-- Free value: the palette index of a colour that is not in the palette; R144 gives none (log 14). -/
opaque indexOfAbsent : List Colour → Colour → BitVec 8

/-- Free value: `PREFIX` of an empty pixel list; R211 is about non-empty lists only (log 13). -/
opaque prefixOfNoPixels : BitVec 12

end Sys2Proof.Config
end

