-- ==== Sys2Proof/Machine/State.lean ====
section
/-! DEFINITION. The state of the block as plain data (spec/10_state.md R20 to R46), the reasons a
step can stop, and the state after reset (spec/70_reset_and_hazards.md R290). -/

namespace Sys2Proof.Machine

/-- Why the machine stops with a fault. -/
inductive Fault where
  /-- Raised by the sequencer when `PHASE` holds a code that R98 gives no operation ("unreachable:
  no rule assigns them", R100): the machine is stuck. Safe: the hardware never gets there (log 23). -/
  | unassignedPhase (code : BitVec 6)
  deriving DecidableEq, Repr

/-- Why a request has no meaning: the refused cases of spec/93_implementation_defined.md. -/
inductive Refusal where
  /-- An arm of `exec` that has no meaning yet. Safe: nothing is claimed of it. -/
  | notModelled (mnemonic : String)
  /-- U3: raised by `WRITE` when `PAL[0]` equals some `PAL[c]`, c in 1..15 (R33). Safe: refused by
  the spec. -/
  | sentinelCollision
  /-- U5: raised by `WRITE` when `NFRAMES >= 2` and the effective format's animation flag is 0
  (R248). Safe: refused by the spec. -/
  | animationDisabled
  /-- U1: raised by `RASTER` when a visited cell's record has a byte nothing has written (R51).
  Safe: refused by the spec (log 8). -/
  | cellUnwritten (addr : Nat)
  /-- U2: raised by `RASTER` and by a host memory write when an address is at or beyond
  `CELLMEM_SIZE` (R51). Safe: refused by the spec. -/
  | cellOutOfRange (addr : Nat)
  /-- U7: raised by `IMGDESC` when `SF[K].X` or `SF[K].Y` exceeds 65535 (R256). Safe: refused by
  the spec (log 22). -/
  | gifOffset
  /-- U8: raised by a host access other than a read of `STATUS` or a reset while `STATUS.STATE` is
  BUSY (R22, R296). Safe: refused by the spec (log 17). -/
  | hostWhileBusy
  deriving DecidableEq, Repr

/-- `STATUS.STATE` (R24). -/
inductive RunState where
  | idle
  | busy
  | done
  | error
  deriving DecidableEq, Repr

/-- `STATUS` (R24). -/
structure Status where
  state : RunState
  fault : Bool
  deriving DecidableEq, Repr

/-- `ERR` (R25). -/
structure Err where
  code : BitVec 4
  frame : BitVec 8
  deriving DecidableEq, Repr

/-- `CFG_PNG` (R27). -/
structure CfgPng where
  compLevel : BitVec 4
  pngAnim : Bool
  alpha : BitVec 8
  deriving DecidableEq, Repr

/-- `CFG_GIF` (R28). -/
structure CfgGif where
  gifAnim : Bool
  gifTrans : Bool
  deriving DecidableEq, Repr

/-- The control registers of R22. `CMD` holds nothing (R23). -/
structure Control where
  status : Status
  err : Err
  /-- `CFG_FORMAT.DEFAULT_FMT` (R26). -/
  defaultFmt : BitVec 2
  cfgPng : CfgPng
  cfgGif : CfgGif
  nframes : BitVec 8
  /-- `PAL[0..15]` (R32). -/
  pal : Vector Colour 16
  /-- `FD[0 .. NF_MAX-1]` (R30). -/
  fd : List FrameDesc
  deriving DecidableEq, Repr

/-- Cell memory (R54): the bytes that have been written, by strictly rising address. An address
that is not listed has no value (log 8). -/
abbrev Memory := List Host.Cell

/-- The program counter (R36). -/
structure Pc where
  phase : BitVec 6
  fi : BitVec 8
  k : BitVec 8
  deriving DecidableEq, Repr

/-- The flags of R37 that one operation sets for later ones; `HAS_TRANS` stands with the palette
registers, `BOXV` with its frame's box, `STATUS.FAULT` in `STATUS`. -/
structure Flags where
  efmt : BitVec 2
  useFlash : Bool
  tflag : Bool
  deriving DecidableEq, Repr

/-- What `PALADD` writes: `PLIST`, `PLEN` (R38) and `HAS_TRANS` (R37). -/
structure PaletteRegs where
  plist : List Colour
  plen : BitVec 9
  hasTrans : Bool
  deriving DecidableEq, Repr

/-- A pixel grid: rows top first, each row left to right (R39). -/
abbrev Grid (α : Type) := List (List α)

/-- What `RASTER` leaves for one frame: `STEADY`, `ALT`, `BOXV` and the flash box (R39). -/
structure FrameSet where
  steady : Grid ColourNo
  alt : Grid ColourNo
  boxv : Bool
  minx : BitVec 16
  miny : BitVec 16
  maxx : BitVec 16
  maxy : BitVec 16
  deriving DecidableEq, Repr

/-- `SF[k]`, an entry of the sub-frame table (R40). -/
structure SubFrame where
  w : BitVec 16
  h : BitVec 16
  x : BitVec 17
  y : BitVec 17
  delay : BitVec 16
  idx : Grid (BitVec 8)
  deriving DecidableEq, Repr

/-- `CRC`, `SEQ`, `DEPTH` (R42). -/
structure PngRegs where
  crc : BitVec 32
  seq : BitVec 32
  depth : BitVec 4
  deriving DecidableEq, Repr

/-- `DICT`, `NEXT`, `WIDTH`, `PREFIX` (R43). `DICT` lists its pairs, last assigned first. -/
structure LzwRegs where
  dict : List ((BitVec 12 × BitVec 8) × BitVec 12)
  next : BitVec 13
  width : BitVec 4
  pfx : BitVec 12
  deriving DecidableEq, Repr

/-- `BITACC`, `BITCNT` (R43). -/
structure BitRegs where
  bitacc : BitVec 24
  bitcnt : BitVec 5
  deriving DecidableEq, Repr

/-- `BLK`, `BLKLEN` (R43): the bytes collected for the sub-block being filled. -/
structure BlkRegs where
  blk : Bytes
  blklen : BitVec 8
  deriving DecidableEq, Repr

/-- The GIF datapath registers (R43). -/
structure GifRegs where
  mincode : BitVec 4
  lzw : LzwRegs
  bits : BitRegs
  blk : BlkRegs
  deriving DecidableEq, Repr

/-- The MODEL's own: the result of the datapath function that was executed alone last (log 4). -/
inductive FuncOut where
  | none
  | attr (paper ink : ColourNo) (flashing : Bool)
  | pixel (display alt : ColourNo)
  | index (i : BitVec 8)
  | crc (c : BitVec 32)
  | bytes (b : Bytes)
  | codes (c : List Code)
  deriving DecidableEq, Repr

/-- The MODEL's own: the host's side of the port (log 2). -/
structure HostPort where
  /-- The host's accesses still to come. -/
  queue : List HostReq
  /-- The value of the last register read. -/
  data : BitVec 32
  /-- The bytes of the last read of `OUT`. -/
  outCopy : Bytes
  deriving DecidableEq, Repr

/-- The state of the block. -/
structure State where
  /-- The implementation parameters of R9, which no step changes (log 5). -/
  par : Config.Params
  ctl : Control
  mem : Memory
  /-- `OUT` (R41). -/
  out : Bytes
  pc : Pc
  flg : Flags
  pl : PaletteRegs
  /-- The grids and box of each frame (R39); entries beyond the list read as `FrameSet.blank`. -/
  sets : List FrameSet
  /-- `SF` (R40); entries beyond the list read as `SubFrame.blank`. -/
  sf : List SubFrame
  /-- `NSUB` (R40). -/
  nsub : BitVec 8
  png : PngRegs
  gif : GifRegs
  fout : FuncOut
  host : HostPort
  deriving DecidableEq, Repr

/-- A frame set that no `RASTER` has written. DESIGN CHOICE: R45 gives no value (log 9). -/
def FrameSet.blank : FrameSet :=
  { steady := [], alt := [], boxv := false, minx := 0, miny := 0, maxx := 0, maxy := 0 }

/-- A sub-frame that no `ASSEMBLE` has written. DESIGN CHOICE: R45 gives no value (log 9). -/
def SubFrame.blank : SubFrame := { w := 0, h := 0, x := 0, y := 0, delay := 0, idx := [] }

/-- The GIF datapath registers at reset. DESIGN CHOICE: R45 gives no value (log 9). -/
def GifRegs.blank : GifRegs :=
  { mincode := 0
    lzw := { dict := [], next := 0, width := 0, pfx := 0 }
    bits := { bitacc := 0, bitcnt := 0 }
    blk := { blk := [], blklen := 0 } }

/-- The control registers at reset (R45, R290). `FD` has the depth `NF_MAX` and holds the initial
contents that the parameters give, the argument that U1 allows in place of a refusal (log 7). -/
def Control.reset (p : Config.Params) : Control :=
  { status := { state := .idle, fault := false }
    err := { code := 0, frame := 0 }
    defaultFmt := 1
    cfgPng := { compLevel := 9, pngAnim := true, alpha := 255 }
    cfgGif := { gifAnim := true, gifTrans := false }
    nframes := 0
    pal := p.palDefault
    fd := (List.range p.nfMax.toNat).map fun i => p.fdReset.getD i FrameDesc.blank }

/-- The state after reset of a block with the parameters `p` (R45, R290, R291), the host's queue
empty. -/
def State.resetWith (p : Config.Params) : State :=
  { par := p
    ctl := Control.reset p
    mem := []
    out := []
    pc := { phase := 0, fi := 0, k := 0 }
    flg := { efmt := 0, useFlash := false, tflag := false }
    pl := { plist := [], plen := 0, hasTrans := false }
    sets := []
    sf := []
    nsub := 0
    png := { crc := 0, seq := 0, depth := 0 }
    gif := GifRegs.blank
    fout := .none
    host := { queue := [], data := 0, outCopy := [] } }

/-- The machine right after reset. -/
def State.reset : State := State.resetWith Config.Params.reset

end Sys2Proof.Machine
end

