-- ==== Sys2Proof/Machine/Ops.lean ====
section
/-! DEFINITION. The named operations over cell memory, the control registers, `OUT` and `PHASE`; and
error entry and fault entry, which every operation that raises goes through. -/

namespace Sys2Proof.Machine

/-! ## Cell memory (spec/20_memory.md R50 to R54) -/

/-- The canonical form of a memory: addresses strictly rising. An unlisted address has no value, so
no entry can repeat what an unlisted address reads as. -/
def memWf : Memory → Bool
  | [] => true
  | [_] => true
  | c :: d :: rest => decide (c.1 < d.1) && memWf (d :: rest)

/-- The byte at an address, or none where nothing has been written since reset (U1). -/
def memRead : Memory → Nat → Option Byte
  | [], _ => none
  | c :: rest, a => if c.1 = a then some c.2 else memRead rest a

/-- Write one byte, keeping the canonical form. -/
def memWrite : Memory → Nat → Byte → Memory
  | [], a, v => [(a, v)]
  | c :: rest, a, v =>
    if a < c.1 then (a, v) :: c :: rest
    else if a = c.1 then (a, v) :: rest
    else c :: memWrite rest a v

/-- `MemWrite(addr, n, v)`: the bytes of `v` at `addr ..`, lowest address first (R12). -/
def memWriteBytes : Memory → Nat → Bytes → Memory
  | m, _, [] => m
  | m, a, v :: vs => memWriteBytes (memWrite m a v) (a + 1) vs

/-- `MemRead(addr, n)` (R51): the `n` bytes at `addr ..`, lowest address first; refused where a byte
lies at or beyond `CELLMEM_SIZE` (U2) or has not been written (U1). -/
def memReadBytes (size : Nat) (m : Memory) : Nat → Nat → Except Refusal Bytes
  | _, 0 => .ok []
  | a, n + 1 =>
    if a < size then
      match memRead m a with
      | none => .error (.cellUnwritten a)
      | some v =>
        match memReadBytes size m (a + 1) n with
        | .error r => .error r
        | .ok vs => .ok (v :: vs)
    else .error (.cellOutOfRange a)

/-! ## The output stream and the program counter -/

/-- `Emit(b)`: `OUT <- OUT || b` (R56). -/
def emit (b : Bytes) (s : State) : State := { s with out := s.out ++ b }

/-- `PHASE <- p`: the sequencer's next operation (R36). -/
def goto (p : BitVec 6) (s : State) : State := { s with pc := { s.pc with phase := p } }

/-- `PHASE <- p` with `FI <- i` (R36). -/
def gotoFrame (p : BitVec 6) (i : BitVec 8) (s : State) : State :=
  { s with pc := { s.pc with phase := p, fi := i } }

/-- `PHASE <- p` with `K <- k` (R36). -/
def gotoSub (p : BitVec 6) (k : BitVec 8) (s : State) : State :=
  { s with pc := { s.pc with phase := p, k := k } }

/-- `STATUS.STATE <- r`. -/
def setRunState (r : RunState) (s : State) : State :=
  { s with ctl := { s.ctl with status := { s.ctl.status with state := r } } }

/-! ## Error entry and fault entry (spec/60_exceptions.md R266, R268) -/

/-- The cause codes of R260. -/
def eFormat : BitVec 4 := 1
def eZero : BitVec 4 := 2
def eCrop : BitVec 4 := 3
def fPalette : BitVec 4 := 8
def fLzw : BitVec 4 := 9

/-- `raise Error(code, frame)` (R266): `ERR` takes the code and the frame, `OUT` is emptied,
`STATUS.STATE` becomes ERROR and `PHASE` IDLE; nothing else changes. -/
def raiseError (code : BitVec 4) (frame : BitVec 8) (s : State) : State :=
  { s with
    ctl := { s.ctl with
      err := { code := code, frame := frame }
      status := { s.ctl.status with state := .error } }
    out := []
    pc := { s.pc with phase := phaseIdle } }

/-- `raise Fault(code)` (R268): as error entry with frame 0, and `STATUS.FAULT` is set. -/
def raiseFault (code : BitVec 4) (s : State) : State :=
  { s with
    ctl := { s.ctl with
      err := { code := code, frame := 0 }
      status := { state := .error, fault := true } }
    out := []
    pc := { s.pc with phase := phaseIdle } }

/-! ## Sequencing a result that can stop -/

/-- The result of a computation inside an operation: a value, a refused case, or a fault to be
raised by R268. -/
inductive Flow (α : Type) where
  | ok (a : α)
  | refuse (r : Refusal)
  | fault (code : BitVec 4)
  deriving DecidableEq, Repr

/-- Go on with the value, or stop as the first computation stopped. -/
def Flow.andThen {α β : Type} (x : Flow α) (f : α → Flow β) : Flow β :=
  match x with
  | .ok a => f a
  | .refuse r => .refuse r
  | .fault c => .fault c

/-- The loop `for b in bs` over a value, stopping at the first stop. -/
def Flow.loop {α β : Type} (f : α → β → Flow α) : α → List β → Flow α
  | a, [] => .ok a
  | a, b :: bs => (f a b).andThen fun a' => Flow.loop f a' bs

/-- What an operation answers, from a computation that started in `s`: its next state, its refusal,
or fault entry from `s`. -/
def Flow.toOutcome (s : State) (x : Flow State) : Host.Outcome State Fault Refusal :=
  match x with
  | .ok t => .next t
  | .refuse r => .refused r
  | .fault c => .next (raiseFault c s)

/-! ## Acceptance of a `WRITE` (spec/10_state.md R46) -/

/-- The initialisation of R46. The grids and the sub-frame table of an earlier `WRITE` are dropped:
"nothing of a previous `WRITE` survives" (log 24), so each frame's `BOXV` and box read 0 (log 9). -/
def acceptWrite (s : State) : State :=
  { s with
    ctl := { s.ctl with
      err := { code := 0, frame := 0 }
      status := { s.ctl.status with state := .busy } }
    out := []
    pc := { s.pc with fi := 0, k := 0 }
    pl := { plist := [], plen := 0, hasTrans := false }
    sets := []
    sf := []
    nsub := 0
    png := { s.png with seq := 0 } }

/-! ## The control register map (spec/10_state.md R22 to R32) -/

/-- The code of `STATUS.STATE` (R24). -/
def runStateCode : RunState → BitVec 2
  | .idle => 0
  | .busy => 1
  | .done => 2
  | .error => 3

/-- The value of a bit as a one-bit number. -/
def bit (b : Bool) : BitVec 1 := BitVec.ofBool b

/-- `FD[i]` field `j` as it reads (R30); fields 12 to 15 read 0. -/
def fieldRead (f : FrameDesc) (j : Nat) : BitVec 32 :=
  match j with
  | 0 => f.cellBase
  | 1 => f.rows.setWidth 32
  | 2 => f.cols.setWidth 32
  | 3 => f.scale.setWidth 32
  | 4 => f.maskMode.setWidth 32
  | 5 => f.cropX.setWidth 32
  | 6 => f.cropY.setWidth 32
  | 7 => f.cropW.setWidth 32
  | 8 => f.cropH.setWidth 32
  | 9 => f.delay.setWidth 32
  | 10 => f.offX.setWidth 32
  | 11 => f.offY.setWidth 32
  | _ => 0

/-- `MASK_MODE` as it stores: 3 stores 0 (R31). -/
def legalMaskMode (v : BitVec 2) : BitVec 2 := if v = 3 then 0 else v

/-- `DEFAULT_FMT` as it stores: 0 and 3 store 1 (R26). -/
def legalDefaultFmt (v : BitVec 2) : BitVec 2 := if v = 2 then 2 else 1

/-- `COMP_LEVEL` as it stores: 10 to 15 store 9 (R27). -/
def legalCompLevel (v : BitVec 4) : BitVec 4 := if 9 < v.toNat then 9 else v

/-- `FD[i]` field `j` written with `v`, the field's width of it (R30, R31); fields 12 to 15 ignore
the write. -/
def fieldWrite (f : FrameDesc) (j : Nat) (v : BitVec 32) : FrameDesc :=
  match j with
  | 0 => { f with cellBase := v }
  | 1 => { f with rows := v.setWidth 8 }
  | 2 => { f with cols := v.setWidth 8 }
  | 3 => { f with scale := v.setWidth 8 }
  | 4 => { f with maskMode := legalMaskMode (v.setWidth 2) }
  | 5 => { f with cropX := v.setWidth 16 }
  | 6 => { f with cropY := v.setWidth 16 }
  | 7 => { f with cropW := v.setWidth 16 }
  | 8 => { f with cropH := v.setWidth 16 }
  | 9 => { f with delay := v.setWidth 16 }
  | 10 => { f with offX := v.setWidth 16 }
  | 11 => { f with offY := v.setWidth 16 }
  | _ => f

/-- `FD[i]`, the descriptor that index `i` names. -/
def frameDesc (c : Control) (i : Nat) : FrameDesc := c.fd.getD i FrameDesc.blank

/-- `PAL[c]` (R32). -/
def palColour (c : Control) (n : ColourNo) : Colour := c.pal.get ⟨n.toNat, n.isLt⟩

/-- What the register numbers of R22 name. -/
inductive Reg where
  | cmd
  | status
  | err
  | cfgFormat
  | cfgPng
  | cfgGif
  | nframes
  | pal (c : ColourNo)
  | fd (i j : Nat)
  | reserved
  deriving DecidableEq, Repr

/-- The register that a number names in a block with `NF_MAX` descriptors (R22). -/
def regOf (nfMax : Nat) (n : Nat) : Reg :=
  if n = 0x00 then .cmd
  else if n = 0x01 then .status
  else if n = 0x02 then .err
  else if n = 0x03 then .cfgFormat
  else if n = 0x04 then .cfgPng
  else if n = 0x05 then .cfgGif
  else if n = 0x06 then .nframes
  else if 0x10 ≤ n ∧ n < 0x20 then .pal (BitVec.ofNat 4 (n - 0x10))
  else if 0x100 ≤ n ∧ (n - 0x100) / 16 < nfMax ∧ (n - 0x100) % 16 < 12 then
    .fd ((n - 0x100) / 16) ((n - 0x100) % 16)
  else .reserved

/-- The value a host read of a register returns (R22 to R32): `CMD` and reserved numbers read 0. -/
def regRead (c : Control) (r : Reg) : BitVec 32 :=
  match r with
  | .cmd => 0
  | .status => (bit c.status.fault ++ runStateCode c.status.state : BitVec 3).setWidth 32
  | .err => (c.err.frame ++ ((0 : BitVec 4) ++ c.err.code) : BitVec 16).setWidth 32
  | .cfgFormat => c.defaultFmt.setWidth 32
  | .cfgPng =>
    (c.cfgPng.alpha ++ ((0 : BitVec 3) ++ (bit c.cfgPng.pngAnim ++ c.cfgPng.compLevel)) :
      BitVec 16).setWidth 32
  | .cfgGif => (bit c.cfgGif.gifTrans ++ bit c.cfgGif.gifAnim : BitVec 2).setWidth 32
  | .nframes => c.nframes.setWidth 32
  | .pal n => (palColour c n).setWidth 32
  | .fd i j => fieldRead (frameDesc c i) j
  | .reserved => 0

/-- A host write to a register other than `CMD` (R22 to R32). Bits above the register's width are
dropped, an invalid option value is replaced by its default (R241), and a write to a read-only or
reserved number changes nothing (R22, R270, log 18). -/
def regWrite (c : Control) (r : Reg) (v : BitVec 32) : Control :=
  match r with
  | .cfgFormat => { c with defaultFmt := legalDefaultFmt (v.extractLsb' 0 2) }
  | .cfgPng =>
    { c with
      cfgPng :=
        { compLevel := legalCompLevel (v.extractLsb' 0 4)
          pngAnim := v.getLsbD 4
          alpha := v.extractLsb' 8 8 } }
  | .cfgGif => { c with cfgGif := { gifAnim := v.getLsbD 0, gifTrans := v.getLsbD 1 } }
  | .nframes => { c with nframes := v.extractLsb' 0 8 }
  | .pal n => { c with pal := c.pal.set n.toNat (v.extractLsb' 0 24) n.isLt }
  | .fd i j => { c with fd := c.fd.set i (fieldWrite (frameDesc c i) j v) }
  | .cmd | .status | .err | .reserved => c

end Sys2Proof.Machine
end

