-- ==== Sys2Proof/Machine/Operands.lean ====
section
/-! DEFINITION. The operands of the operations: the cell record and its bits (spec/20_memory.md R50,
R53), the attribute byte's fields (spec/30_encoding.md R71), the palette `P` and its length `n`
(spec/41_frame_assembler.md R143), the grids and the sub-frame table, and the sizes computed from
`n` (spec/42_png_framer.md R165, spec/43_gif_encoder.md R202, R209). -/

namespace Sys2Proof.Machine

/-! ## The attribute byte (R71) -/

/-- `INK3 = attr[2:0]`. -/
def attrInk3 (a : Byte) : BitVec 3 := a.extractLsb' 0 3

/-- `PAPER3 = attr[5:3]`. -/
def attrPaper3 (a : Byte) : BitVec 3 := a.extractLsb' 3 3

/-- `BRIGHT = attr[6]`. -/
def attrBright (a : Byte) : Bool := a.getLsbD 6

/-- `FLASH = attr[7]`. -/
def attrFlash (a : Byte) : Bool := a.getLsbD 7

/-! ## The cell record (R50, R53) -/

/-- The address of the record of the cell in row `cr` and column `cc` (R50), computed as an integer
(R255). -/
def cellAddr (f : FrameDesc) (cr cc : Nat) : Nat :=
  f.cellBase.toNat + 18 * (cr * f.cols.toNat + cc)

/-- `ATTR`, the byte at offset 0 of a record. -/
def recAttr (r : Bytes) : Byte := r.getD 0 0

/-- `HAS_MASK`, bit 0 of the byte at offset 1. -/
def recHasMask (r : Bytes) : Bool := (r.getD 1 0).getLsbD 0

/-- The ink bit of source pixel (`px`, `py`): `BITMAP[py][7 - px]` (R53). -/
def recInkBit (r : Bytes) (py px : Nat) : Bool := (r.getD (2 + py) 0).getLsbD (7 - px)

/-- The mask bit of source pixel (`px`, `py`): `MASK[py][7 - px]` (R53). -/
def recMaskBit (r : Bytes) (py px : Nat) : Bool := (r.getD (10 + py) 0).getLsbD (7 - px)

/-- The effective mode of a cell (R119 (a)). -/
def effectiveMode (f : FrameDesc) (r : Bytes) : BitVec 2 := if recHasMask r then f.maskMode else 0

/-! ## The grids (R39) -/

/-- The element of a grid in row `y` and column `x`; an element that nothing has written is the free
value given (log 15). -/
def gridAt {α : Type} (unwritten : α) (g : Grid α) (y x : Nat) : α :=
  (g.getD y []).getD x unwritten

/-- A grid of `h` rows by `w` columns from its elements. -/
def gridOf {α : Type} (w h : Nat) (f : Nat → Nat → α) : Grid α :=
  (List.range h).map fun y => (List.range w).map fun x => f y x

/-- `for Y in ylo..yhi-1: for X in xlo..xhi-1: G[Y][X] <- c` (R120). -/
def gridPaint {α : Type} (g : Grid α) (xlo xhi ylo yhi : Nat) (c : α) : Grid α :=
  g.mapIdx fun y row =>
    if ylo ≤ y ∧ y < yhi then row.mapIdx fun x v => if xlo ≤ x ∧ x < xhi then c else v else row

/-- The frame set of frame `i` (R39). -/
def frameSet (s : State) (i : Nat) : FrameSet := s.sets.getD i FrameSet.blank

/-- The table with entry `i` set; entries it did not have are blank. -/
def tableSet (l : List FrameSet) (i : Nat) (v : FrameSet) : List FrameSet :=
  (l ++ List.replicate (i + 1 - l.length) FrameSet.blank).set i v

/-- `SF[k]` (R40). -/
def subFrame (s : State) (k : Nat) : SubFrame := s.sf.getD k SubFrame.blank

/-- `SF[k].IDX[y][x]` (R40). -/
def idxAt (f : SubFrame) (y x : Nat) : BitVec 8 :=
  gridAt (Config.indexUnwritten y x) f.idx y x

/-! ## The palette and the sizes computed from its length -/

/-- The Palette `P` (R143): the sentinel first when `HAS_TRANS = 1`. -/
def palette (c : Control) (p : PaletteRegs) : List Colour :=
  if p.hasTrans then palColour c 0 :: p.plist else p.plist

/-- `n`, the length of the Palette (R143). -/
def paletteLen (c : Control) (p : PaletteRegs) : Nat := (palette c p).length

/-- `DEPTH` for a palette of `n` entries (R165). -/
def depthFor (n : Nat) : BitVec 4 :=
  if n ≤ 2 then 1 else if n ≤ 4 then 2 else if n ≤ 16 then 4 else 8

/-- `while NG < n: NG = 2 * NG`, at most `fuel` times round. -/
def doubleTo (n : Nat) : Nat → Nat → Nat
  | 0, ng => ng
  | fuel + 1, ng => if ng < n then doubleTo n fuel (2 * ng) else ng

/-- `NG` (R202): the smallest power of two that is at least `n` and at least 4. -/
def tableSize (n : Nat) : Nat := doubleTo n n 4

/-- `SC = log2(NG) - 1` (R202). -/
def sizeCode (n : Nat) : Nat := Nat.log2 (tableSize n) - 1

/-- `while 2^m < n: m = m + 1`, at most `fuel` times round. -/
def growCode (n : Nat) : Nat → Nat → Nat
  | 0, m => m
  | fuel + 1, m => if 2 ^ m < n then growCode n fuel (m + 1) else m

/-- The LZW minimum code size `m` for a palette of `n` entries (R209). -/
def minCode (n : Nat) : Nat := growCode n n 2

end Sys2Proof.Machine
end

