-- ==== Sys2Proof/Machine/Flags.lean ====
section
/-! DEFINITION. The flags and the guards computed from them (spec/10_state.md R37): the effective
format, `USE_FLASH`, `TFLAG`, the sentinel condition, and what decides each optional record. -/

namespace Sys2Proof.Machine

/-- `EFMT` for the operand `fmt` of a `WRITE` (R247); none is E_FORMAT. -/
def resolveFormat (fmt defaultFmt : BitVec 2) : Option (BitVec 2) :=
  if fmt = 0 then some defaultFmt
  else if fmt = 1 then some 1
  else if fmt = 2 then some 2
  else none

/-- The effective format's animation flag (R248). -/
def animFlag (c : Control) (efmt : BitVec 2) : Bool :=
  if efmt = 1 then c.cfgPng.pngAnim else c.cfgGif.gifAnim

/-- `USE_FLASH` (R248). -/
def useFlashFor (c : Control) (efmt : BitVec 2) : Bool := c.nframes = 1 && animFlag c efmt

/-- The case U5: `NFRAMES >= 2` and the effective format's animation flag is 0. -/
def animationMissing (c : Control) (efmt : BitVec 2) : Bool :=
  2 ≤ c.nframes.toNat && !animFlag c efmt

/-- The sentinel condition of R33: `PAL[0] != PAL[c]` for every c in 1..15. -/
def sentinelOk (c : Control) : Bool :=
  (List.range 15).all fun i => palColour c 0 ≠ palColour c (BitVec.ofNat 4 (i + 1))

/-- `TFLAG` (R206). -/
def tflagFor (c : Control) (hasTrans : Bool) : Bool := c.cfgGif.gifTrans && hasTrans

/-- Whether tRNS is emitted (R167, R180). -/
def emitsTrns (s : State) : Bool := s.ctl.cfgPng.alpha.toNat < 255 && s.pl.hasTrans

/-- Whether there are two or more sub-frames (R168, R180, R204). -/
def animated (s : State) : Bool := 2 ≤ s.nsub.toNat

/-- Whether a graphic control extension is emitted (R206). -/
def emitsGce (s : State) : Bool := animated s || s.flg.tflag

end Sys2Proof.Machine
end

