-- ==== Sys2Proof/Machine/Assembler.lean ====
section
/-! DEFINITION. The frame assembler (spec/41_frame_assembler.md): PALADD, INDEXMAP, ASSEMBLE. -/

namespace Sys2Proof.Machine

/-- `PALADD(c)` on the palette registers (R141). -/
def palAdd (ctl : Control) (p : PaletteRegs) (c : ColourNo) : Flow PaletteRegs :=
  if c = 0 then .ok { p with hasTrans := true }
  else if palColour ctl c ∈ p.plist then .ok p
  else if p.plen = 256 then .fault fPalette
  else .ok { p with plist := p.plist ++ [palColour ctl c], plen := p.plen + 1 }

/-- The position of a colour in a list, as an index. -/
def positionOf (v : Colour) : List Colour → Nat → Option (BitVec 8)
  | [], _ => none
  | c :: cs, i => if c = v then some (BitVec.ofNat 8 i) else positionOf v cs (i + 1)

/-- `INDEXMAP(c)` (R144). A colour that is not in the palette has no index in the rule: its index is
the free value (log 14). -/
def indexMap (ctl : Control) (p : PaletteRegs) (c : ColourNo) : BitVec 8 :=
  if c = 0 then 0
  else
    match positionOf (palColour ctl c) (palette ctl p) 0 with
    | some i => i
    | none => Config.indexOfAbsent (palette ctl p) (palColour ctl c)

/-- The sub-frame made from input frame `i` (R145, R147). -/
def frameSub (s : State) (i : Nat) : SubFrame :=
  let f := frameDesc s.ctl i
  let g := (frameSet s i).steady
  { w := f.cropW
    h := f.cropH
    x := f.offX.setWidth 17
    y := f.offY.setWidth 17
    delay := f.delay
    idx := gridOf f.cropW.toNat f.cropH.toNat fun y x =>
      indexMap s.ctl s.pl (gridAt (Config.gridUnwritten y x) g y x) }

/-- The alternate sub-frame of frame 0: its flash box (R145, R147). -/
def altSub (s : State) : SubFrame :=
  let f := frameDesc s.ctl 0
  let b := frameSet s 0
  let w := b.maxx - b.minx + 1
  let h := b.maxy - b.miny + 1
  { w := w
    h := h
    x := f.offX.setWidth 17 + b.minx.setWidth 17
    y := f.offY.setWidth 17 + b.miny.setWidth 17
    delay := f.delay
    idx := gridOf w.toNat h.toNat fun y x =>
      indexMap s.ctl s.pl
        (gridAt (Config.gridUnwritten (b.miny.toNat + y) (b.minx.toNat + x)) b.alt
          (b.miny.toNat + y) (b.minx.toNat + x)) }

/-- The sub-frame table (R145). -/
def subFrames (s : State) : List SubFrame :=
  if s.ctl.nframes = 1 then
    if (frameSet s 0).boxv then [frameSub s 0, altSub s] else [frameSub s 0]
  else (List.range s.ctl.nframes.toNat).map (frameSub s)

/-- The hand-over to the encoder (R250): the PNG sequence, or the GIF sequence with `TFLAG`
computed before `GHDR` (R206, R220). -/
def toEncoder (s : State) : State :=
  if s.flg.efmt = 1 then goto phaseSig s
  else goto phaseGhdr { s with flg := { s.flg with tflag := tflagFor s.ctl s.pl.hasTrans } }

/-- `ASSEMBLE` (R145): build `SF` and `NSUB`, then the encoder's sequence. -/
def execAssemble (s : State) : Host.Outcome State Fault Refusal :=
  .next (toEncoder
    { s with sf := subFrames s, nsub := BitVec.ofNat 8 (subFrames s).length })

/-- `PALADD` alone (R141). -/
def execPaladd (c : ColourNo) (s : State) : Host.Outcome State Fault Refusal :=
  ((palAdd s.ctl s.pl c).andThen fun p => .ok { s with pl := p }).toOutcome s

/-- `INDEXMAP` alone (R144): the index is the result. -/
def execIndexmap (c : ColourNo) (s : State) : Host.Outcome State Fault Refusal :=
  .next { s with fout := .index (indexMap s.ctl s.pl c) }

end Sys2Proof.Machine
end

