-- ==== Sys2Proof/Machine/Compositor.lean ====
section
/-! DEFINITION. The pixel compositor (spec/40_compositor.md): ATTRDEC, PIXSEL, VALIDATE, RASTER. -/

namespace Sys2Proof.Machine

/-! ## ATTRDEC and PIXSEL (R110 to R115, R119) -/

/-- What `ATTRDEC` returns: paper, ink and the flashing bit (R110). -/
structure AttrColours where
  paper : ColourNo
  ink : ColourNo
  flashing : Bool
  deriving DecidableEq, Repr

/-- The colour number of a 3-bit colour field (R110, R112): bright black is black. -/
def fieldColour (bright : Bool) (c3 : BitVec 3) : ColourNo :=
  if bright then (if c3 = 0 then 1 else 8 + c3.setWidth 4) else 1 + c3.setWidth 4

/-- `ATTRDEC(attr)` (R110, R111). -/
def attrDec (a : Byte) : AttrColours :=
  let ink := fieldColour (attrBright a) (attrInk3 a)
  let paper := fieldColour (attrBright a) (attrPaper3 a)
  { paper := paper, ink := ink, flashing := attrFlash a && paper ≠ ink }

/-- `PIXSEL` mode none (R113): (`display`, `alt`). -/
def pixselNone (inkBit : Bool) (paper ink : ColourNo) : ColourNo × ColourNo :=
  if inkBit then (ink, paper) else (paper, ink)

/-- `PIXSEL` mode OR-AND (R114): the mask bit is tested first. -/
def pixselOrand (inkBit maskBit : Bool) (paper ink : ColourNo) : ColourNo × ColourNo :=
  if maskBit = false then (paper, ink) else if inkBit then (ink, paper) else (0, 0)

/-- `PIXSEL` mode AND-OR (R115): the ink bit is tested first. -/
def pixselAndor (inkBit maskBit : Bool) (paper ink : ColourNo) : ColourNo × ColourNo :=
  if inkBit then (ink, paper) else if maskBit then (0, 0) else (paper, ink)

/-- `PIXSEL` by effective mode (R119). No register holds mode 3 (R31); it selects as the value it
would be stored as, none (log 28). -/
def pixsel (mode : BitVec 2) (inkBit maskBit : Bool) (paper ink : ColourNo) : ColourNo × ColourNo :=
  if mode = 1 then pixselOrand inkBit maskBit paper ink
  else if mode = 2 then pixselAndor inkBit maskBit paper ink
  else pixselNone inkBit paper ink

/-- `ATTRDEC` alone (R110): the triple is the result. -/
def execAttrdec (a : Byte) (s : State) : Host.Outcome State Fault Refusal :=
  .next { s with fout := .attr (attrDec a).paper (attrDec a).ink (attrDec a).flashing }

/-- `PIXSEL.none` alone (R113): the mask bit is ignored. -/
def execPixselNone (inkBit _maskBit : Bool) (paper ink : ColourNo) (s : State) :
    Host.Outcome State Fault Refusal :=
  .next { s with fout := .pixel (pixselNone inkBit paper ink).1 (pixselNone inkBit paper ink).2 }

/-- `PIXSEL.orand` alone (R114). -/
def execPixselOrand (inkBit maskBit : Bool) (paper ink : ColourNo) (s : State) :
    Host.Outcome State Fault Refusal :=
  .next
    { s with
      fout :=
        .pixel (pixselOrand inkBit maskBit paper ink).1 (pixselOrand inkBit maskBit paper ink).2 }

/-- `PIXSEL.andor` alone (R115). -/
def execPixselAndor (inkBit maskBit : Bool) (paper ink : ColourNo) (s : State) :
    Host.Outcome State Fault Refusal :=
  .next
    { s with
      fout :=
        .pixel (pixselAndor inkBit maskBit paper ink).1 (pixselAndor inkBit maskBit paper ink).2 }

/-! ## VALIDATE (R116) -/

/-- The zero-size test of a frame (R116, R262). -/
def zeroSize (f : FrameDesc) : Bool :=
  f.rows = 0 || f.cols = 0 || f.scale = 0 || f.cropW = 0 || f.cropH = 0

/-- The crop test of a frame (R116, R265), over unbounded integers (R255). -/
def cropOutside (f : FrameDesc) : Bool :=
  8 * f.scale.toNat * f.cols.toNat < f.cropX.toNat + f.cropW.toNat ||
    8 * f.scale.toNat * f.rows.toNat < f.cropY.toNat + f.cropH.toNat

/-- The error of one frame: the zero-size test before the crop test (R264). -/
def frameError (f : FrameDesc) : Option (BitVec 4) :=
  if zeroSize f then some eZero else if cropOutside f then some eCrop else none

/-- The first failing frame of a list of indices, with its error (R116). -/
def firstError (c : Control) : List Nat → Option (BitVec 4 × Nat)
  | [] => none
  | i :: rest =>
    match frameError (frameDesc c i) with
    | some e => some (e, i)
    | none => firstError c rest

/-- The outcome of all the checks of `VALIDATE`: the frame count, then the frames in index order. -/
def validateError (nfMax : Nat) (c : Control) : Option (BitVec 4 × Nat) :=
  if c.nframes = 0 ∨ nfMax < c.nframes.toNat then some (eZero, 0)
  else firstError c (List.range c.nframes.toNat)

/-- `for FI in 0..N-1: RASTER FI`, from index `i`; then `ASSEMBLE` (R250). -/
def rasterLoop (i : Nat) (s : State) : State :=
  if i < s.ctl.nframes.toNat then gotoFrame phaseRaster (BitVec.ofNat 8 i) s
  else goto phaseAssemble s

/-- `VALIDATE` (R116): the first error is raised, else the frames are rasterised (R250). DESIGN CHOICE:
the loop over the frames leaves FI alone, so that after an error FI is what acceptance left, 0, and the
frame stands in `ERR.FRAME` only (log 31). -/
def execValidate (s : State) : Host.Outcome State Fault Refusal :=
  match validateError s.par.nfMax.toNat s.ctl with
  | some (e, i) => .next (raiseError e (BitVec.ofNat 8 i) s)
  | none => .next (rasterLoop 0 s)

/-! ## RASTER (R117 to R127) -/

/-- The first grid column (row) that source column (row) `p` covers: `max(p*s, x0) - x0` (R118). -/
def spanLo (p s x0 : Nat) : Nat := max (p * s) x0 - x0

/-- One past the last: `min((p+1)*s, x0+w) - x0` (R118). Where the integer would be negative it is
0 here, and the span is empty either way. -/
def spanHi (p s x0 w : Nat) : Nat := min ((p + 1) * s) (x0 + w) - x0

/-- Whether source column `sx` has a grid column (R118). -/
def visibleX (f : FrameDesc) (sx : Nat) : Bool :=
  spanLo sx f.scale.toNat f.cropX.toNat < spanHi sx f.scale.toNat f.cropX.toNat f.cropW.toNat

/-- Whether source row `sy` has a grid row (R118). -/
def visibleY (f : FrameDesc) (sy : Nat) : Bool :=
  spanLo sy f.scale.toNat f.cropY.toNat < spanHi sy f.scale.toNat f.cropY.toNat f.cropH.toNat

/-- A cell is visited iff one of its source pixels is (R118). -/
def cellVisited (f : FrameDesc) (cr cc : Nat) : Bool :=
  (List.range 8).any (fun px => visibleX f (8 * cc + px)) &&
    (List.range 8).any (fun py => visibleY f (8 * cr + py))

/-- Extend the flash box by the rectangle (`x1`, `y1`, `x2`, `y2`) (R124). -/
def extendBox (b : FrameSet) (x1 y1 x2 y2 : Nat) : FrameSet :=
  if b.boxv then
    { b with
      minx := BitVec.ofNat 16 (min b.minx.toNat x1)
      miny := BitVec.ofNat 16 (min b.miny.toNat y1)
      maxx := BitVec.ofNat 16 (max b.maxx.toNat x2)
      maxy := BitVec.ofNat 16 (max b.maxy.toNat y2) }
  else
    { b with
      boxv := true
      minx := BitVec.ofNat 16 x1
      miny := BitVec.ofNat 16 y1
      maxx := BitVec.ofNat 16 x2
      maxy := BitVec.ofNat 16 y2 }

/-- What `RASTER` has written so far: the palette registers and the frame's set. -/
structure RasterRegs where
  pl : PaletteRegs
  set : FrameSet
  deriving DecidableEq, Repr

/-- The grids and the box of a visited source pixel: fill its span with `d` and `a`, and extend the
box when the pixel is changed (R120, R123). -/
def paintSpan (f : FrameDesc) (sx sy : Nat) (fl : Bool) (d a : ColourNo) (b : FrameSet) : FrameSet :=
  let xlo := spanLo sx f.scale.toNat f.cropX.toNat
  let xhi := spanHi sx f.scale.toNat f.cropX.toNat f.cropW.toNat
  let ylo := spanLo sy f.scale.toNat f.cropY.toNat
  let yhi := spanHi sy f.scale.toNat f.cropY.toNat f.cropH.toNat
  let painted :=
    { b with
      steady := gridPaint b.steady xlo xhi ylo yhi d
      alt := gridPaint b.alt xlo xhi ylo yhi a }
  if fl && d ≠ 0 then extendBox painted xlo ylo (xhi - 1) (yhi - 1) else painted

/-- The colours of one source pixel of a cell: its `display` and, in a cell with effective flashing,
its `alt`, else `display` again (R119, R120). -/
def pixelColours (f : FrameDesc) (useFlash : Bool) (r : Bytes) (py px : Nat) : ColourNo × ColourNo :=
  let at_ := attrDec (recAttr r)
  let da := pixsel (effectiveMode f r) (recInkBit r py px) (recMaskBit r py px) at_.paper at_.ink
  if at_.flashing && useFlash then da else (da.1, da.1)

/-- The effective flashing bit of a cell (R119 (b)). -/
def cellFlashing (useFlash : Bool) (r : Bytes) : Bool := (attrDec (recAttr r)).flashing && useFlash

/-- One source pixel of a cell (the body of R120's inner loops). -/
def rasterPixel (ctl : Control) (f : FrameDesc) (useFlash : Bool) (r : Bytes) (cr cc : Nat)
    (g : RasterRegs) (p : Nat × Nat) : Flow RasterRegs :=
  let sx := 8 * cc + p.2
  let sy := 8 * cr + p.1
  if visibleX f sx && visibleY f sy then
    let da := pixelColours f useFlash r p.1 p.2
    let fl := cellFlashing useFlash r
    (palAdd ctl g.pl da.1).andThen fun pl1 =>
      (if fl then palAdd ctl pl1 da.2 else .ok pl1).andThen fun pl2 =>
        .ok { pl := pl2, set := paintSpan f sx sy fl da.1 da.2 g.set }
  else .ok g

/-- Every pair (`row`, `column`), rows first: the order of a double loop. -/
def pairs (rows cols : Nat) : List (Nat × Nat) :=
  (List.range rows).flatMap fun y => (List.range cols).map fun x => (y, x)

/-- One cell (R120): a cell that no grid element shows is skipped without being read. -/
def rasterCell (size : Nat) (mem : Memory) (ctl : Control) (f : FrameDesc) (useFlash : Bool)
    (g : RasterRegs) (c : Nat × Nat) : Flow RasterRegs :=
  if cellVisited f c.1 c.2 then
    match memReadBytes size mem (cellAddr f c.1 c.2) 18 with
    | .error r => .refuse r
    | .ok rec => Flow.loop (rasterPixel ctl f useFlash rec c.1 c.2) g (pairs 8 8)
  else .ok g

/-- The frame's set before its first pixel: `BOXV <- 0` (R120) and grids of the crop's size whose
elements nothing has written (log 15). DESIGN CHOICE: MINX, MINY, MAXX, MAXY keep what they held until
the first changed pixel sets them; R39 gives them no meaning while `BOXV = 0` (log 30). -/
def blankSet (f : FrameDesc) (old : FrameSet) : FrameSet :=
  { old with
    steady := gridOf f.cropW.toNat f.cropH.toNat Config.gridUnwritten
    alt := gridOf f.cropW.toNat f.cropH.toNat Config.gridUnwritten
    boxv := false }

/-- All of frame `f` (R120), whose set was `old`: cells row-major, source pixels row-major inside a
cell. -/
def rasterFrame (s : State) (f : FrameDesc) (old : FrameSet) : Flow RasterRegs :=
  Flow.loop (rasterCell s.par.cellMemSize s.mem s.ctl f s.flg.useFlash)
    { pl := s.pl, set := blankSet f old } (pairs f.rows.toNat f.cols.toNat)

/-- `RASTER` (R120) for frame `FI`: its set and the palette registers, then the next frame or
`ASSEMBLE` (R250). -/
def execRaster (s : State) : Host.Outcome State Fault Refusal :=
  ((rasterFrame s (frameDesc s.ctl s.pc.fi.toNat) (frameSet s s.pc.fi.toNat)).andThen fun g =>
    .ok (rasterLoop (s.pc.fi.toNat + 1)
      { s with pl := g.pl, sets := tableSet s.sets s.pc.fi.toNat g.set })).toOutcome s

end Sys2Proof.Machine
end

