-- ==== Sys2Proof/Machine/Facade.lean ====
section
/-! DEFINITION. The facade (spec/44_facade.md): WRITE, IDLE, FINISH. -/

namespace Sys2Proof.Machine

/-- `WRITE fmt` (R246 to R248). The refused cases are those the rules name: a `WRITE` while BUSY
(R296), the sentinel condition broken (R33), several frames with animation off (R248); see log 20
for their order. Then R46's initialisation, the format, `USE_FLASH`, and `PHASE <- 0x01`. -/
def execWrite (fmt : BitVec 2) (s : State) : Host.Outcome State Fault Refusal :=
  if s.ctl.status.state = .busy then .refused .hostWhileBusy
  else if sentinelOk s.ctl = false then .refused .sentinelCollision
  else
    match resolveFormat fmt s.ctl.defaultFmt with
    | none => .next (raiseError eFormat 0 (acceptWrite s))
    | some efmt =>
      if animationMissing s.ctl efmt then .refused .animationDisabled
      else
        .next (goto phaseValidate
          { acceptWrite s with
            flg := { s.flg with efmt := efmt, useFlash := useFlashFor s.ctl efmt } })

/-- `IDLE` (R98): no operation; the block waits for `CMD`. -/
def execIdle (s : State) : Host.Outcome State Fault Refusal := .next s

/-- `FINISH` (R251): `STATUS.STATE <- DONE`, `PHASE <- IDLE`. -/
def execFinish (s : State) : Host.Outcome State Fault Refusal :=
  .next (goto phaseIdle (setRunState .done s))

end Sys2Proof.Machine
end

