-- ==== Sys2Proof/Machine/GifEncoder.lean ====
section
/-! DEFINITION. The GIF encoder (spec/43_gif_encoder.md): the GIF operations with their order (R220),
LZW, BITPACK and SUBBLOCK. -/

namespace Sys2Proof.Machine

/-! ## The LZW compressor (R210 to R213) -/

/-- `CLEAR = 2^m` (R93). -/
def lzwClear (m : Nat) : BitVec 12 := BitVec.ofNat 12 (2 ^ m)

/-- `STOP = 2^m + 1` (R93). -/
def lzwStop (m : Nat) : BitVec 12 := BitVec.ofNat 12 (2 ^ m + 1)

/-- The root code of a pixel value (R210). -/
def lzwRoot (p : BitVec 8) : BitVec 12 := p.setWidth 12

/-- The code that `DICT` gives a pair, if it holds the pair. -/
def dictGet (c : BitVec 12) (p : BitVec 8) :
    List ((BitVec 12 × BitVec 8) × BitVec 12) → Option (BitVec 12)
  | [] => none
  | e :: rest => if e.1 = (c, p) then some e.2 else dictGet c p rest

/-- The *reset* of the compressor (R210), with the `PREFIX` that follows it. -/
def lzwReset (m : Nat) (pfx : BitVec 12) : LzwRegs :=
  { dict := [], next := BitVec.ofNat 13 (2 ^ m + 2), width := BitVec.ofNat 4 (m + 1), pfx := pfx }

/-- `out(c)` (R211): the pair (`c`, `WIDTH`). A code of 13 bits is F_LZW (R263). -/
def lzwOut (r : LzwRegs) (c : BitVec 12) : Flow Code :=
  if 12 < r.width.toNat then .fault fLzw else .ok { code := c, width := r.width }

/-- `DICT[(PREFIX, k)] <- NEXT`, `NEXT + 1`, and the width change (R212). Assigning code 4096 is
F_LZW (R263). -/
def lzwAssign (r : LzwRegs) (k : BitVec 8) : Flow LzwRegs :=
  if 4096 ≤ r.next.toNat then .fault fLzw
  else .ok
    { dict := ((r.pfx, k), r.next.setWidth 12) :: r.dict
      next := r.next + 1
      width :=
        if 2 ^ r.width.toNat < r.next.toNat + 1 ∧ r.width.toNat < 12 then r.width + 1 else r.width
      pfx := r.pfx }

/-- The step for one further pixel (R212): the new registers and the codes it appends. -/
def lzwStep (m : Nat) (r : LzwRegs) (k : BitVec 8) : Flow (LzwRegs × List Code) :=
  match dictGet r.pfx k r.dict with
  | some c => .ok ({ r with pfx := c }, [])
  | none =>
    (lzwOut r r.pfx).andThen fun c1 =>
      if r.next.toNat < 4096 then
        (lzwAssign r k).andThen fun r' => .ok ({ r' with pfx := lzwRoot k }, [c1])
      else
        (lzwOut r (lzwClear m)).andThen fun c2 => .ok (lzwReset m (lzwRoot k), [c1, c2])

/-- The end, after the last pixel (R213). -/
def lzwFinish (m : Nat) (r : LzwRegs) : Flow (LzwRegs × List Code) :=
  (lzwOut r r.pfx).andThen fun c1 =>
    let r' : LzwRegs :=
      if r.next.toNat = 2 ^ r.width.toNat ∧ r.width.toNat < 12 then { r with width := r.width + 1 }
      else r
    (lzwOut r' (lzwStop m)).andThen fun c2 => .ok (r', [c1, c2])

/-- The steps for the further pixels, then the end. -/
def lzwRun (m : Nat) : LzwRegs → List (BitVec 8) → Flow (LzwRegs × List Code)
  | r, [] => lzwFinish m r
  | r, k :: ks =>
    (lzwStep m r k).andThen fun rc =>
      (lzwRun m rc.1 ks).andThen fun rd => .ok (rd.1, rc.2 ++ rd.2)

/-- `PREFIX <- pixels[0]` (R211); of an empty list it is the free value (log 13). -/
def lzwFirst : List (BitVec 8) → BitVec 12
  | [] => Config.prefixOfNoPixels
  | p :: _ => lzwRoot p

/-- `LZW(pixels, m)` (R210 to R213): the registers it leaves and the codes. A minimum code size that
needs codes of 13 bits is F_LZW at the first `out`. -/
def lzw (m : Nat) (pixels : List (BitVec 8)) : Flow (LzwRegs × List Code) :=
  if 12 < m + 1 then .fault fLzw
  else
    (lzwOut (lzwReset m (lzwFirst pixels)) (lzwClear m)).andThen fun c0 =>
      (lzwRun m (lzwReset m (lzwFirst pixels)) pixels.tail).andThen fun rc =>
        .ok (rc.1, c0 :: rc.2)

/-- `LZW` alone: its registers are written (R35) and the codes are the result. -/
def execLzw (pixels : List (BitVec 8)) (m : BitVec 4) (s : State) :
    Host.Outcome State Fault Refusal :=
  ((lzw m.toNat pixels).andThen fun rc =>
    .ok { s with gif := { s.gif with mincode := m, lzw := rc.1 }, fout := .codes rc.2 }).toOutcome s

/-! ## Bit packing (R214) -/

/-- `while BITCNT >= 8` (R214): the completed bytes and what is left, at most `fuel` times round. -/
def bitsDrain : Nat → BitRegs → Bytes × BitRegs
  | 0, r => ([], r)
  | fuel + 1, r =>
    if 8 ≤ r.bitcnt.toNat then
      let rest := bitsDrain fuel { bitacc := r.bitacc >>> 8, bitcnt := r.bitcnt - 8 }
      (r.bitacc.extractLsb' 0 8 :: rest.1, rest.2)
    else ([], r)

/-- One code into the accumulator (R214). The 5-bit `BITCNT` needs at most 3 rounds. -/
def bitsPut (r : BitRegs) (c : Code) : Bytes × BitRegs :=
  bitsDrain 4
    { bitacc := r.bitacc ||| (c.code.setWidth 24 <<< r.bitcnt.toNat)
      bitcnt := r.bitcnt + c.width.setWidth 5 }

/-- The codes in order, then the flush of the last bits (R214). -/
def bitsRun : BitRegs → List Code → Bytes × BitRegs
  | r, [] => (if 0 < r.bitcnt.toNat then [r.bitacc.extractLsb' 0 8] else [], r)
  | r, c :: cs =>
    let put := bitsPut r c
    let rest := bitsRun put.2 cs
    (put.1 ++ rest.1, rest.2)

/-- `BITPACK(codes)` (R214): the bytes, and `BITACC`, `BITCNT` as it leaves them. -/
def bitPack (codes : List Code) : Bytes × BitRegs := bitsRun { bitacc := 0, bitcnt := 0 } codes

/-- `BITPACK` alone: its registers are written and the bytes are the result. -/
def execBitpack (codes : List Code) (s : State) : Host.Outcome State Fault Refusal :=
  .next { s with
    gif := { s.gif with bits := (bitPack codes).2 }, fout := .bytes (bitPack codes).1 }

/-! ## Sub-blocks (R215) -/

/-- One byte into `BLK` (R215): the buffer is written out with its length when `BLKLEN` reaches
255. -/
def blkPut (r : BlkRegs) (b : Byte) : Bytes × BlkRegs :=
  if r.blklen + 1 = 255 then ((r.blklen + 1) :: (r.blk ++ [b]), { blk := [], blklen := 0 })
  else ([], { blk := r.blk ++ [b], blklen := r.blklen + 1 })

/-- The bytes in order; at the end the buffer once more if it is not empty, then the terminator
(R215). -/
def blkRun : BlkRegs → Bytes → Bytes × BlkRegs
  | r, [] =>
    ((if r.blklen = 0 then [] else r.blklen :: r.blk) ++ [0x00], { blk := [], blklen := 0 })
  | r, b :: bs =>
    let put := blkPut r b
    let rest := blkRun put.2 bs
    (put.1 ++ rest.1, rest.2)

/-- `SUBBLOCK(bytes)` (R215), and `BLK`, `BLKLEN` as it leaves them. -/
def subBlock (bytes : Bytes) : Bytes × BlkRegs := blkRun { blk := [], blklen := 0 } bytes

/-- `SUBBLOCK` alone: its registers are written and the blocks are the result. -/
def execSubblock (bytes : Bytes) (s : State) : Host.Outcome State Fault Refusal :=
  .next { s with
    gif := { s.gif with blk := (subBlock bytes).2 }, fout := .bytes (subBlock bytes).1 }

/-! ## The records (spec/30_encoding.md R85 to R92) -/

/-- The GIF header, ASCII "GIF89a" (R85). -/
def gifHeader : Bytes := [0x47, 0x49, 0x46, 0x38, 0x39, 0x61]

/-- The packed byte of the logical screen descriptor (R86, R201). -/
def lsdPacked (sc : Nat) : Byte := byteOf (0x80 ||| (sc <<< 4) ||| sc)

/-- The logical screen descriptor (R86, R201). -/
def lsdBytes (f : SubFrame) (n : Nat) : Bytes :=
  le16 f.w ++ le16 f.h ++ [lsdPacked (sizeCode n), 0x00, 0x00]

/-- The global colour table (R87, R202), padded with black. -/
def gctBytes (p : List Colour) : Bytes :=
  p.flatMap rgb ++ (List.replicate (tableSize p.length - p.length) (rgb 0)).flatten

/-- The NETSCAPE2.0 loop block (R88). -/
def appextBytes : Bytes :=
  [0x21, 0xFF, 0x0B, 0x4E, 0x45, 0x54, 0x53, 0x43, 0x41, 0x50, 0x45, 0x32, 0x2E, 0x30, 0x03, 0x01,
    0x00, 0x00, 0x00]

/-- The graphic control extension (R89, R206): bits 7:5 zero, the disposal method, the user-input
flag 0, `TFLAG`. -/
def gceBytes (disposal : BitVec 3) (tflag : Bool) (f : SubFrame) : Bytes :=
  [0x21, 0xF9, 0x04, (0 : BitVec 3) ++ (disposal ++ ((0 : BitVec 1) ++ bit tflag))] ++
    le16 f.delay ++ [0x00, 0x00]

/-- The image descriptor (R90, R207); its offsets are 16-bit fields. -/
def imgdescBytes (f : SubFrame) : Bytes :=
  [0x2C] ++ le16 (f.x.setWidth 16) ++ le16 (f.y.setWidth 16) ++ le16 f.w ++ le16 f.h ++ [0x00]

/-- The pixels of a sub-frame row by row, top row first (R208). -/
def subPixels (f : SubFrame) : List (BitVec 8) :=
  (List.range f.h.toNat).flatMap fun y => (List.range f.w.toNat).map (idxAt f y)

/-! ## The order (R220) -/

/-- `for K in 0..NSUB-1: [GCE]; IMGDESC; IMGDATA`, from index `k`; then TRAILER. -/
def gifLoop (k : Nat) (s : State) : State :=
  if k < s.nsub.toNat then
    gotoSub (if emitsGce s then phaseGce else phaseImgdesc) (BitVec.ofNat 8 k) s
  else goto phaseTrailer s

/-! ## The operations -/

/-- `GHDR` (R200). -/
def execGhdr (s : State) : Host.Outcome State Fault Refusal :=
  .next (goto phaseLsd (emit gifHeader s))

/-- `LSD` (R201). -/
def execLsd (s : State) : Host.Outcome State Fault Refusal :=
  .next (goto phaseGct (emit (lsdBytes (subFrame s 0) (paletteLen s.ctl s.pl)) s))

/-- `GCT` (R202); then APPEXT under its guard. -/
def execGct (s : State) : Host.Outcome State Fault Refusal :=
  let t := emit (gctBytes (palette s.ctl s.pl)) s
  .next (if animated t then goto phaseAppext t else gifLoop 0 t)

/-- `APPEXT` (R204). -/
def execAppext (s : State) : Host.Outcome State Fault Refusal :=
  .next (gifLoop 0 (emit appextBytes s))

/-- `GCE` (R206) for sub-frame `K`. -/
def execGce (s : State) : Host.Outcome State Fault Refusal :=
  .next (goto phaseImgdesc
    (emit (gceBytes s.par.gifDisposal s.flg.tflag (subFrame s s.pc.k.toNat)) s))

/-- `IMGDESC` (R207) for sub-frame `K`; an offset above 65535 is refused (R256). -/
def execImgdesc (s : State) : Host.Outcome State Fault Refusal :=
  if 65535 < (subFrame s s.pc.k.toNat).x.toNat ∨ 65535 < (subFrame s s.pc.k.toNat).y.toNat then
    .refused .gifOffset
  else .next (goto phaseImgdata (emit (imgdescBytes (subFrame s s.pc.k.toNat)) s))

/-- The image data of a sub-frame (R91, R208): `MINCODE`, then the sub-blocks of the packed codes;
and the GIF datapath registers it leaves. -/
def imageData (n : Nat) (f : SubFrame) : Flow (Bytes × GifRegs) :=
  (lzw (minCode n) (subPixels f)).andThen fun rc =>
    .ok (byteOf (minCode n) :: (subBlock (bitPack rc.2).1).1,
      { mincode := BitVec.ofNat 4 (minCode n)
        lzw := rc.1
        bits := (bitPack rc.2).2
        blk := (subBlock (bitPack rc.2).1).2 })

/-- `IMGDATA` (R208) for sub-frame `K`; then the next sub-frame. -/
def execImgdata (s : State) : Host.Outcome State Fault Refusal :=
  ((imageData (paletteLen s.ctl s.pl) (subFrame s s.pc.k.toNat)).andThen fun bg =>
    .ok (gifLoop (s.pc.k.toNat + 1) (emit bg.1 { s with gif := bg.2 }))).toOutcome s

/-- `TRAILER` (R216). -/
def execTrailer (s : State) : Host.Outcome State Fault Refusal :=
  .next (goto phaseFinish (emit [0x3B] s))

end Sys2Proof.Machine
end

