-- ==== Sys2Proof/Machine/Deflate.lean ====
section
/-! DEFINITION. The DEFLATE port (spec/42_png_framer.md R176), its `Inflate`, the stored-block instance
of spec/93_implementation_defined.md G4, and a codec that shows that R176's obligations can be met. -/

namespace Sys2Proof.Machine

/-- One step of the Adler-32 sums `(a, b)` (G4). -/
def adlerStep (ab : Nat × Nat) (x : Byte) : Nat × Nat :=
  ((ab.1 + x.toNat) % 65521, (ab.2 + (ab.1 + x.toNat) % 65521) % 65521)

/-- `adler32(raw) = (b << 16) | a` (G4). -/
def adler32 (raw : Bytes) : BitVec 32 :=
  let ab := raw.foldl adlerStep (1, 0)
  BitVec.ofNat 16 ab.2 ++ BitVec.ofNat 16 ab.1

/-- One stored block: its final bit, length, complemented length and bytes (G4). -/
def storedBlock (last : Bool) (b : Bytes) : Bytes :=
  byteOf last.toNat :: (le16 (BitVec.ofNat 16 b.length) ++ le16 (~~~ BitVec.ofNat 16 b.length) ++ b)

/-- The stored blocks of `raw`: 65535 bytes each, the last one marked; at most `fuel` before it. -/
def storedBlocks : Nat → Bytes → Bytes
  | 0, raw => storedBlock true raw
  | fuel + 1, raw =>
    if raw.length ≤ 65535 then storedBlock true raw
    else storedBlock false (raw.take 65535) ++ storedBlocks fuel (raw.drop 65535)

/-- `DEFLATE_STORED(level, raw)` (G4); it ignores the level. -/
def deflateStored (raw : Bytes) : Bytes :=
  [0x78, 0x01] ++ storedBlocks (raw.length / 65535) raw ++ be32 (adler32 raw)

/-- `Inflate` of the blocks of such a stream: "the concatenated block contents" (G4); at most `fuel`
blocks. -/
def inflateBlocks : Nat → Bytes → Bytes
  | fuel + 1, last :: lo :: hi :: _ :: _ :: rest =>
    let len := lo.toNat + 256 * hi.toNat
    if last.getLsbD 0 then rest.take len else rest.take len ++ inflateBlocks fuel (rest.drop len)
  | _, _ => []

/-- `Inflate` of a stream that `deflateStored` makes (G4): the two header bytes are skipped. -/
def inflateStored (z : Bytes) : Bytes := inflateBlocks z.length (z.drop 2)

theorem inflateBlocks_storedBlock (last : Bool) (b tail : Bytes) (fuel : Nat)
    (h : b.length ≤ 65535) :
    inflateBlocks (fuel + 1) (storedBlock last b ++ tail) =
      if last then b else b ++ inflateBlocks fuel tail := by
  have hl : b.length % 256 + 256 * ((b.length % 65536) >>> 8 % 256) = b.length := by
    rw [Nat.shiftRight_eq_div_pow]
    omega
  cases last <;> simp [storedBlock, inflateBlocks, le16, byteOf, hl]

/-- `Inflate` gives the bytes of stored blocks back, whatever follows them. -/
theorem inflateBlocks_storedBlocks (fuel : Nat) (raw tail : Bytes)
    (h : raw.length ≤ 65535 * (fuel + 1)) (more : Nat) :
    inflateBlocks (fuel + 1 + more) (storedBlocks fuel raw ++ tail) = raw := by
  induction fuel generalizing raw with
  | zero =>
    rw [Nat.add_comm, storedBlocks, inflateBlocks_storedBlock _ _ _ _ (by omega)]
    rfl
  | succ n ih =>
    rw [storedBlocks, Nat.add_right_comm]
    split
    · rw [inflateBlocks_storedBlock _ _ _ _ ‹_›]; rfl
    · rw [List.append_assoc, inflateBlocks_storedBlock _ _ _ _ (by simp)]
      simp [ih (raw.drop 65535) (by simp; omega)]

theorem storedBlocks_length (fuel : Nat) (raw : Bytes) :
    (storedBlocks fuel raw).length ≤ raw.length + 5 * (fuel + 1) := by
  induction fuel generalizing raw with
  | zero => simp [storedBlocks, storedBlock, le16]
  | succ n ih =>
    have := ih (raw.drop 65535)
    rw [storedBlocks]
    split <;> simp [storedBlock, le16] at * <;> omega

theorem length_le_storedBlocks (fuel : Nat) (raw : Bytes) :
    raw.length ≤ (storedBlocks fuel raw).length := by
  induction fuel generalizing raw with
  | zero => simp [storedBlocks, storedBlock]; omega
  | succ n ih =>
    have := ih (raw.drop 65535)
    rw [storedBlocks]
    split <;> simp [storedBlock] at * <;> omega

/-- R176 (b) for the stored blocks. -/
theorem inflateStored_deflateStored (raw : Bytes) : inflateStored (deflateStored raw) = raw := by
  have h := length_le_storedBlocks (raw.length / 65535) raw
  obtain ⟨more, hm⟩ : ∃ more, (deflateStored raw).length = raw.length / 65535 + 1 + more :=
    Nat.exists_eq_add_of_le (by simp [deflateStored]; omega)
  rw [inflateStored, hm]
  exact inflateBlocks_storedBlocks _ _ _ (by omega) _

/-- The length of a stored stream. -/
theorem deflateStored_length (raw : Bytes) :
    (deflateStored raw).length ≤ Config.storedLength raw.length := by
  have := storedBlocks_length (raw.length / 65535) raw
  simp [deflateStored, Config.storedLength, be32] at *
  omega

/-! ## A codec with all the obligations of R176

It is no model of a compressor: it shows that the obligations can be met, and `external` is a codec of
which nothing else is known. -/

/-- The `h` rows of `m` bytes of a pixel stream, without their filter bytes. -/
def stripRows : Nat → Nat → Bytes → Bytes
  | 0, _, _ => []
  | h + 1, m, b => (b.drop 1).take m ++ stripRows h m (b.drop (m + 1))

/-- `h` rows of `m` bytes, each after a filter byte 00. -/
def fillRows : Nat → Nat → Bytes → Bytes
  | 0, _, _ => []
  | h + 1, m, b => 0x00 :: (b.take m ++ fillRows h m (b.drop m))

theorem stripRows_length (h m : Nat) (b : Bytes) : (stripRows h m b).length ≤ h * m := by
  induction h generalizing b with
  | zero => simp [stripRows]
  | succ h ih =>
    have := ih (b.drop (m + 1))
    simp only [stripRows, List.length_append, List.length_take, Nat.succ_mul]
    omega

theorem fillRows_stripRows (rows : List Bytes) (m : Nat) (h : ∀ r ∈ rows, r.length = m) :
    fillRows rows.length m (stripRows rows.length m (Config.scanlines rows)) =
      Config.scanlines rows := by
  induction rows with
  | nil => rfl
  | cons r rows ih =>
    obtain ⟨rfl, h⟩ := List.forall_mem_cons.1 h
    have hs : Config.scanlines (r :: rows) = 0x00 :: (r ++ Config.scanlines rows) := rfl
    simp [hs, stripRows, fillRows, ih h]

theorem scanlines_length (rows : List Bytes) (m : Nat) (h : ∀ r ∈ rows, r.length = m) :
    (Config.scanlines rows).length = rows.length * (m + 1) := by
  induction rows with
  | nil => exact (Nat.zero_mul _).symm
  | cons r rows ih =>
    obtain ⟨rfl, h⟩ := List.forall_mem_cons.1 h
    have hs : Config.scanlines (r :: rows) = 0x00 :: (r ++ Config.scanlines rows) := rfl
    rw [hs, List.length_cons, List.length_append, ih h, List.length_cons, Nat.succ_mul]
    omega

/-- Whether `raw` is at most 65535 rows of `m` bytes, each after a filter byte 00. -/
def hasRows (raw : Bytes) (m : Nat) : Bool :=
  let h := raw.length / (m + 1)
  h ≤ 65535 && fillRows h m (stripRows h m raw) = raw

/-- A stream of rows as its two sizes and its rows without filter bytes; any other byte string as it
is. -/
def rowDeflate (raw : Bytes) : Bytes :=
  match (List.range 32769).find? (hasRows raw) with
  | some m =>
    let h := raw.length / (m + 1)
    0x01 :: (le16 (BitVec.ofNat 16 h) ++ le16 (BitVec.ofNat 16 m) ++ stripRows h m raw)
  | none => 0x00 :: raw

/-- The inverse of `rowDeflate`. -/
def rowInflate : Bytes → Bytes
  | 0x00 :: raw => raw
  | _ :: h0 :: h1 :: m0 :: m1 :: b =>
    fillRows (h0.toNat + 256 * h1.toNat) (m0.toNat + 256 * m1.toNat) b
  | _ => []

theorem rowInflate_rowDeflate (raw : Bytes) : rowInflate (rowDeflate raw) = raw := by
  unfold rowDeflate
  split
  · rename_i m hm
    obtain ⟨hh, he⟩ := by simpa [hasRows] using List.find?_some hm
    have hlt := List.mem_range.1 (List.mem_of_find?_eq_some hm)
    have hn (n : Nat) (h : n ≤ 65535) : n % 256 + 256 * ((n % 65536) >>> 8 % 256) = n := by
      rw [Nat.shiftRight_eq_div_pow]
      omega
    simp [rowInflate, le16, hn _ hh, hn m (by omega), he]
  · rfl

theorem rowDeflate_length (raw : Bytes)
    (h : Config.Scanlines raw ∨ Config.storedLength raw.length + 4 < 2 ^ 31) :
    (rowDeflate raw).length + 4 < 2 ^ 31 := by
  unfold rowDeflate
  split
  · rename_i m hm
    obtain ⟨hh, -⟩ := by simpa [hasRows] using List.find?_some hm
    have hlt := List.mem_range.1 (List.mem_of_find?_eq_some hm)
    have := stripRows_length (raw.length / (m + 1)) m raw
    have := Nat.mul_le_mul hh (Nat.lt_succ_iff.1 hlt)
    simp [le16]
    omega
  · rename_i hn
    rcases h with ⟨rows, m, hr, hm, hl, rfl⟩ | h
    · have := List.find?_eq_none.1 hn m (List.mem_range.2 (by omega))
      simp [hasRows, scanlines_length rows m hl, fillRows_stripRows rows m hl, hr] at this
    · rw [Config.storedLength] at h
      rw [List.length_cons]
      omega

/-- A codec, as `Config.Codec` asks for. -/
def rowCodec : Config.Codec where
  deflate _ := rowDeflate
  inflate := rowInflate
  roundTrip _ raw _ := rowInflate_rowDeflate raw
  fits _ raw _ := rowDeflate_length raw

/-! ## The port -/

/-- The external compressor (R176). -/
def external : Config.Codec := (Config.externalFrom : Config.Codec → Config.Codec) rowCodec

/-- `DEFLATE(level, raw)` (R176): what answers the port. -/
def deflate (port : Config.DeflatePort) (level : BitVec 4) (raw : Bytes) : Bytes :=
  match port with
  | .external => external.deflate level raw
  | .stored => deflateStored raw

/-- `Inflate(z)` (R176 (b)). -/
def inflate (port : Config.DeflatePort) (z : Bytes) : Bytes :=
  match port with
  | .external => external.inflate z
  | .stored => inflateStored z

end Sys2Proof.Machine
end

