-- ==== Sys2Proof/Machine/PngFramer.lean ====
section
/-! DEFINITION. The PNG chunk framer (spec/42_png_framer.md): CRC32, CHUNK, PACKSCAN, DEFLATE and
the PNG operations with their order (R180). -/

namespace Sys2Proof.Machine

/-! ## The CRC-32 unit (R160 to R162) -/

/-- One of the 8 rounds that make a table entry (R161). -/
def crcRound (c : BitVec 32) : BitVec 32 :=
  if c.getLsbD 0 then (c >>> 1) ^^^ 0xEDB88320#32 else c >>> 1

/-- `CRC_TAB[n]` (R161). -/
def crcTab (n : Byte) : BitVec 32 :=
  crcRound (crcRound (crcRound (crcRound (crcRound (crcRound (crcRound (crcRound
    (n.setWidth 32))))))))

/-- The update of the `CRC` register by one byte (R162). -/
def crcStep (c : BitVec 32) (x : Byte) : BitVec 32 :=
  crcTab ((c ^^^ x.setWidth 32).extractLsb' 0 8) ^^^ (c >>> 8)

/-- The `CRC` register after the bytes of `b` (R162). -/
def crcRegister (b : Bytes) : BitVec 32 := b.foldl crcStep 0xFFFFFFFF#32

/-- `CRC32(b)` (R162). -/
def crc32 (b : Bytes) : BitVec 32 := crcRegister b ^^^ 0xFFFFFFFF#32

/-- `CRC32` alone: `CRC` is written and the value is the result. -/
def execCrc32 (b : Bytes) (s : State) : Host.Outcome State Fault Refusal :=
  .next { s with png := { s.png with crc := crcRegister b }, fout := .crc (crc32 b) }

/-! ## Framing (R163) -/

/-- The bytes of a chunk: `be32(len(data)) || type || data || be32(CRC32(type || data))`. -/
def chunkBytes (type : BitVec 32) (data : Bytes) : Bytes :=
  be32 (BitVec.ofNat 32 data.length) ++ (be32 type ++ data) ++ be32 (crc32 (be32 type ++ data))

/-- `CHUNK(type, data)` (R163): the chunk is appended to `OUT`, and `CRC` is written. -/
def chunk (type : BitVec 32) (data : Bytes) (s : State) : State :=
  emit (chunkBytes type data) { s with png := { s.png with crc := crcRegister (be32 type ++ data) } }

/-- `CHUNK` alone (R163). -/
def execChunk (type : BitVec 32) (data : Bytes) (s : State) : Host.Outcome State Fault Refusal :=
  .next (chunk type data s)

/-! The chunk types of R83, `ascii` of their names. -/

def typeIhdr : BitVec 32 := 0x49484452
def typePlte : BitVec 32 := 0x504C5445
def typeTrns : BitVec 32 := 0x74524E53
def typeActl : BitVec 32 := 0x6163544C
def typeFctl : BitVec 32 := 0x6663544C
def typeIdat : BitVec 32 := 0x49444154
def typeFdat : BitVec 32 := 0x66644154
def typeIend : BitVec 32 := 0x49454E44

/-! ## Pixel packing and compression (R176, R177) -/

/-- The bytes of one scanline from the accumulator `acc` holding `cnt` bits (R177): indices `d` bits
each, first pixel in the most significant bits, the last byte padded with zeros. -/
def packRow (d : Nat) : Nat → Nat → List (BitVec 8) → Bytes
  | acc, cnt, [] => if 0 < cnt then [byteOf (acc <<< (8 - cnt))] else []
  | acc, cnt, p :: ps =>
    let acc' := (acc <<< d) ||| p.toNat
    if cnt + d = 8 then byteOf acc' :: packRow d 0 0 ps else packRow d acc' (cnt + d) ps

/-- Row `y` of a sub-frame's indices, left to right. -/
def idxRow (f : SubFrame) (y : Nat) : List (BitVec 8) := (List.range f.w.toNat).map (idxAt f y)

/-- `PACKSCAN` of a sub-frame at depth `d` (R177): each scanline prefixed by filter byte 0. -/
def packScan (f : SubFrame) (d : Nat) : Bytes :=
  (List.range f.h.toNat).flatMap fun y => 0x00 :: packRow d 0 0 (idxRow f y)

/-- `PACKSCAN` alone (R177): the stream is the result. -/
def execPackscan (k : BitVec 8) (d : BitVec 4) (s : State) : Host.Outcome State Fault Refusal :=
  .next { s with fout := .bytes (packScan (subFrame s k.toNat) d.toNat) }

/-- `DEFLATE` alone (R176): the compressed stream is the result. -/
def execDeflate (level : BitVec 4) (raw : Bytes) (s : State) : Host.Outcome State Fault Refusal :=
  .next { s with fout := .bytes (deflate s.par.port level raw) }

/-- `Z` of sub-frame `k`: its scanlines at `DEPTH`, compressed at `COMP_LEVEL` (R172, R173). -/
def compressed (s : State) (k : Nat) : Bytes :=
  deflate s.par.port s.ctl.cfgPng.compLevel (packScan (subFrame s k) s.png.depth.toNat)

/-! ## The records (spec/30_encoding.md R73 to R80) -/

/-- The PNG signature (R73). -/
def pngSignature : Bytes := [0x89, 0x50, 0x4E, 0x47, 0x0D, 0x0A, 0x1A, 0x0A]

/-- IHDR data (R74). -/
def ihdrData (f : SubFrame) (depth : BitVec 4) : Bytes :=
  be32 (f.w.setWidth 32) ++ be32 (f.h.setWidth 32) ++ [depth.setWidth 8, 0x03, 0x00, 0x00, 0x00]

/-- PLTE data (R75). -/
def plteData (p : List Colour) : Bytes := p.flatMap rgb

/-- acTL data (R77). -/
def actlData (nsub : BitVec 8) : Bytes := be32 (nsub.setWidth 32) ++ be32 0

/-- fcTL data (R78). -/
def fctlData (seq : BitVec 32) (f : SubFrame) : Bytes :=
  be32 seq ++ be32 (f.w.setWidth 32) ++ be32 (f.h.setWidth 32) ++ be32 (f.x.setWidth 32) ++
    be32 (f.y.setWidth 32) ++ be16 f.delay ++ be16 100 ++ [0x00, 0x00]

/-- `SEQ <- SEQ + 1` (R171). -/
def bumpSeq (s : State) : State := { s with png := { s.png with seq := s.png.seq + 1 } }

/-! ## The order (R180) -/

/-- What follows PLTE and tRNS: acTL when animated, else IDAT. -/
def afterTrns (s : State) : State := if animated s then goto phaseActl s else goto phaseIdat s

/-- `for K in 1..NSUB-1: fcTL; fdAT`, from index `k`; then IEND. -/
def pngLoop (k : Nat) (s : State) : State :=
  if k < s.nsub.toNat then gotoSub phaseFctl (BitVec.ofNat 8 k) s else goto phaseIend s

/-! ## The operations -/

/-- `SIG` (R164). -/
def execSig (s : State) : Host.Outcome State Fault Refusal :=
  .next (goto phaseIhdr (emit pngSignature s))

/-- `IHDR` (R165): `DEPTH` from the palette length, then the chunk. -/
def execIhdr (s : State) : Host.Outcome State Fault Refusal :=
  let depth := depthFor (paletteLen s.ctl s.pl)
  .next (goto phasePlte (chunk typeIhdr (ihdrData (subFrame s 0) depth)
    { s with png := { s.png with depth := depth } }))

/-- `PLTE` (R166); then tRNS under its guard. -/
def execPlte (s : State) : Host.Outcome State Fault Refusal :=
  let t := chunk typePlte (plteData (palette s.ctl s.pl)) s
  .next (if emitsTrns t then goto phaseTrns t else afterTrns t)

/-- `tRNS` (R167). -/
def execTrns (s : State) : Host.Outcome State Fault Refusal :=
  .next (afterTrns (chunk typeTrns [s.ctl.cfgPng.alpha] s))

/-- `acTL` (R168); then `K <- 0` and fcTL. -/
def execActl (s : State) : Host.Outcome State Fault Refusal :=
  .next (gotoSub phaseFctl 0 (chunk typeActl (actlData s.nsub) s))

/-- `fcTL` (R169) for sub-frame `K`; then IDAT for sub-frame 0, fdAT for a later one. -/
def execFctl (s : State) : Host.Outcome State Fault Refusal :=
  let t := bumpSeq (chunk typeFctl (fctlData s.png.seq (subFrame s s.pc.k.toNat)) s)
  .next (if s.pc.k = 0 then goto phaseIdat t else goto phaseFdat t)

/-- `IDAT` (R172); then the loop over the later sub-frames. -/
def execIdat (s : State) : Host.Outcome State Fault Refusal :=
  .next (pngLoop 1 (chunk typeIdat (compressed s 0) s))

/-- `fdAT` (R173) for sub-frame `K`; then the next one. -/
def execFdat (s : State) : Host.Outcome State Fault Refusal :=
  .next (pngLoop (s.pc.k.toNat + 1)
    (bumpSeq (chunk typeFdat (be32 s.png.seq ++ compressed s s.pc.k.toNat) s)))

/-- `IEND` (R175); then FINISH. -/
def execIend (s : State) : Host.Outcome State Fault Refusal :=
  .next (goto phaseFinish (chunk typeIend [] s))

end Sys2Proof.Machine
end

