-- ==== Sys2Proof/Machine/Dispatch.lean ====
section
/-! DEFINITION. The dispatch: one arm per constructor of Instr. -/

namespace Sys2Proof.Machine

def exec (i : Instr) (s : State) : Host.Outcome State Fault Refusal :=
  match i with
  | .write fmt => Sys2Proof.Machine.execWrite fmt s
  | .idle => Sys2Proof.Machine.execIdle s
  | .validate => Sys2Proof.Machine.execValidate s
  | .raster => Sys2Proof.Machine.execRaster s
  | .assemble => Sys2Proof.Machine.execAssemble s
  | .sig => Sys2Proof.Machine.execSig s
  | .ihdr => Sys2Proof.Machine.execIhdr s
  | .plte => Sys2Proof.Machine.execPlte s
  | .trns => Sys2Proof.Machine.execTrns s
  | .actl => Sys2Proof.Machine.execActl s
  | .fctl => Sys2Proof.Machine.execFctl s
  | .idat => Sys2Proof.Machine.execIdat s
  | .fdat => Sys2Proof.Machine.execFdat s
  | .iend => Sys2Proof.Machine.execIend s
  | .ghdr => Sys2Proof.Machine.execGhdr s
  | .lsd => Sys2Proof.Machine.execLsd s
  | .gct => Sys2Proof.Machine.execGct s
  | .appext => Sys2Proof.Machine.execAppext s
  | .gce => Sys2Proof.Machine.execGce s
  | .imgdesc => Sys2Proof.Machine.execImgdesc s
  | .imgdata => Sys2Proof.Machine.execImgdata s
  | .trailer => Sys2Proof.Machine.execTrailer s
  | .finish => Sys2Proof.Machine.execFinish s
  | .attrdec attr => Sys2Proof.Machine.execAttrdec attr s
  | .pixselNone inkBit maskBit paper ink => Sys2Proof.Machine.execPixselNone inkBit maskBit paper ink s
  | .pixselOrand inkBit maskBit paper ink => Sys2Proof.Machine.execPixselOrand inkBit maskBit paper ink s
  | .pixselAndor inkBit maskBit paper ink => Sys2Proof.Machine.execPixselAndor inkBit maskBit paper ink s
  | .paladd c => Sys2Proof.Machine.execPaladd c s
  | .indexmap c => Sys2Proof.Machine.execIndexmap c s
  | .crc32 b => Sys2Proof.Machine.execCrc32 b s
  | .chunk type data => Sys2Proof.Machine.execChunk type data s
  | .packscan k d => Sys2Proof.Machine.execPackscan k d s
  | .deflate level raw => Sys2Proof.Machine.execDeflate level raw s
  | .lzw pixels m => Sys2Proof.Machine.execLzw pixels m s
  | .bitpack codes => Sys2Proof.Machine.execBitpack codes s
  | .subblock bytes => Sys2Proof.Machine.execSubblock bytes s

end Sys2Proof.Machine
end

