-- ==== Sys2Proof/Machine/HostPort.lean ====
section
/-! DEFINITION. What a step does: it takes the host's next access (spec/70_reset_and_hazards.md
R290 to R301), or lets the sequencer perform the operation that `PHASE` names
(spec/10_state.md R36). -/

namespace Sys2Proof.Machine

/-- The sequencer performs the operation that `PHASE` names (R36, R98). -/
def seqStep (s : State) : Host.Outcome State Fault Refusal :=
  match decodePhase s.pc.phase with
  | .ok i => exec i s
  | .error _ => .fault (.unassignedPhase s.pc.phase)

/-- Whether `STATUS.STATE` is BUSY. -/
def isBusy (s : State) : Bool := s.ctl.status.state = .busy

/-- A host write to `CMD` (R23, R97): the operation it decodes to, or nothing at all. -/
def cmdWrite (v : Byte) (s : State) : Host.Outcome State Fault Refusal :=
  match decodeCmd v with
  | .ok i => exec i s
  | .error _ => .next s

/-- A host write to a control register; refused while BUSY (R296). -/
def hostWrite (n : Nat) (v : BitVec 32) (s : State) : Host.Outcome State Fault Refusal :=
  if isBusy s then .refused .hostWhileBusy
  else
    match regOf s.par.nfMax.toNat n with
    | .cmd => cmdWrite (v.extractLsb' 0 8) s
    | r => .next { s with ctl := regWrite s.ctl r v }

/-- A host read of a control register: `STATUS` at any time, another register only while the block
is not BUSY (R22, R296, log 17). No side effect but the value handed to the host (R270). -/
def hostRead (n : Nat) (s : State) : Host.Outcome State Fault Refusal :=
  if isBusy s && regOf s.par.nfMax.toNat n ≠ .status then .refused .hostWhileBusy
  else .next { s with host := { s.host with data := regRead s.ctl (regOf s.par.nfMax.toNat n) } }

/-- A host write to cell memory (R52); refused while BUSY (R296) and where a byte lies at or beyond
`CELLMEM_SIZE` (log 19). -/
def hostMemWrite (a : Nat) (b : Bytes) (s : State) : Host.Outcome State Fault Refusal :=
  if isBusy s then .refused .hostWhileBusy
  else if b ≠ [] ∧ s.par.cellMemSize < a + b.length then
    .refused (.cellOutOfRange (max a s.par.cellMemSize))
  else .next { s with mem := memWriteBytes s.mem a b }

/-- A host read of `OUT` (R41); refused while BUSY (R296). -/
def hostReadOut (s : State) : Host.Outcome State Fault Refusal :=
  if isBusy s then .refused .hostWhileBusy
  else .next { s with host := { s.host with outCopy := s.out } }

/-- The reset input (R290 to R292), at any moment: the reset state with the same parameters; the
host's later accesses stay to come (log 10). -/
def hostReset (s : State) : Host.Outcome State Fault Refusal :=
  .next { State.resetWith s.par with host := { queue := s.host.queue, data := 0, outCopy := [] } }

/-- The state with the host's queue replaced. -/
def withQueue (q : List HostReq) (s : State) : State := { s with host := { s.host with queue := q } }

/-- One step: the host's next access if the queue has one, else one operation of the sequencer
(log 1, log 2). -/
def stepOnce (s : State) : Host.Outcome State Fault Refusal :=
  match s.host.queue with
  | [] => seqStep s
  | .write n v :: q => hostWrite n v (withQueue q s)
  | .read n :: q => hostRead n (withQueue q s)
  | .memWrite a b :: q => hostMemWrite a b (withQueue q s)
  | .readOut :: q => hostReadOut (withQueue q s)
  | .reset :: q => hostReset (withQueue q s)
  | .tick :: q => seqStep (withQueue q s)
  | .wait :: q => if isBusy s then seqStep s else .next (withQueue q s)

/-- The state whose next step runs the instruction of a table word: `PHASE` holds the code and the
host's queue is empty, or the host's one access is the `CMD` write (log 2, log 3). A word that is
neither leaves a queue with that write, which is ignored. -/
def placeWord (s : State) (w : Nat) : State :=
  match tableEncoded w with
  | some (.phase code) => goto code (withQueue [] s)
  | _ => withQueue [.write 0x00 (BitVec.ofNat 32 w)] s

end Sys2Proof.Machine
end

