-- ==== Sys2Proof/Machine/Step.lean ====
section
/-! DEFINITION. The step function and where a table word is placed for it. -/

namespace Sys2Proof.Machine

/-- One step of the block. -/
def step (s : State) : Host.Outcome State Fault Refusal := stepOnce s

/-- `s` with the table word `w` stored where `step` takes its next instruction from. -/
def State.withFetchWord (s : State) (_nbits w : Nat) : State := placeWord s w

end Sys2Proof.Machine
end

