-- ==== Sys2Proof/Machine/Listing.lean ====
section
/-! DEFINITION. The listing syntax of spec/30_encoding.md R101: one operation per line, mnemonic
first, then the values that determine its output. It is a trace a model may expose (R273) and no
part of the block: no step reads it. -/

namespace Sys2Proof.Machine

/-- The operands of a line, separated by commas (R101). -/
def listingOperands (ns : List Nat) : String := ", ".intercalate (ns.map toString)

/-- The line of a mnemonic with its operands. -/
def listingLine (name : String) (ns : List Nat) : String :=
  if ns = [] then name else name ++ " " ++ listingOperands ns

/-- The name of a `WRITE`'s format operand; 3 stands for every unsupported string (R247). -/
def formatName (fmt : BitVec 2) : String :=
  if fmt = 0 then "default" else if fmt = 1 then "png" else if fmt = 2 then "gif" else "unsupported"

/-- The line of the operation `i` about to be performed in `s` (R101). The datapath functions have
no line of their own but `CHUNK`. -/
def listing (i : Instr) (s : State) : String :=
  let f := subFrame s s.pc.k.toNat
  let n := paletteLen s.ctl s.pl
  match i with
  | .write fmt => "WRITE " ++ formatName fmt
  | .idle => "IDLE"
  | .validate => "VALIDATE"
  | .raster => listingLine "RASTER" [s.pc.fi.toNat]
  | .assemble => "ASSEMBLE"
  | .sig => "SIG"
  | .ihdr =>
    listingLine "IHDR" [(subFrame s 0).w.toNat, (subFrame s 0).h.toNat, (depthFor n).toNat]
  | .plte => listingLine "PLTE" [n]
  | .trns => listingLine "tRNS" [s.ctl.cfgPng.alpha.toNat]
  | .actl => listingLine "acTL" [s.nsub.toNat, 0]
  | .fctl =>
    listingLine "fcTL"
      [s.png.seq.toNat, f.w.toNat, f.h.toNat, f.x.toNat, f.y.toNat, f.delay.toNat]
  | .idat => "IDAT"
  | .fdat => listingLine "fdAT" [s.png.seq.toNat]
  | .iend => "IEND"
  | .ghdr => "GHDR"
  | .lsd => listingLine "LSD" [(subFrame s 0).w.toNat, (subFrame s 0).h.toNat, sizeCode n]
  | .gct => listingLine "GCT" [n, tableSize n]
  | .appext => "APPEXT"
  | .gce => listingLine "GCE" [s.flg.tflag.toNat, f.delay.toNat]
  | .imgdesc => listingLine "IMGDESC" [f.x.toNat, f.y.toNat, f.w.toNat, f.h.toNat]
  | .imgdata => listingLine "IMGDATA" [minCode n]
  | .trailer => "TRAILER"
  | .finish => "FINISH"
  | .chunk type data => listingLine "CHUNK" ((be32 type ++ data).map BitVec.toNat)
  | .attrdec _ => "ATTRDEC"
  | .pixselNone _ _ _ _ => "PIXSEL.none"
  | .pixselOrand _ _ _ _ => "PIXSEL.orand"
  | .pixselAndor _ _ _ _ => "PIXSEL.andor"
  | .paladd _ => "PALADD"
  | .indexmap _ => "INDEXMAP"
  | .crc32 _ => "CRC32"
  | .packscan _ _ => "PACKSCAN"
  | .deflate _ _ => "DEFLATE"
  | .lzw _ _ => "LZW"
  | .bitpack _ => "BITPACK"
  | .subblock _ => "SUBBLOCK"

end Sys2Proof.Machine
end

