-- ==== Sys2Proof/Safety.lean ====
section
/-! DEFINITION. The terms the statements use: runs, what a well-behaved state is, what a frame
shows (spec/40_compositor.md R121 to R124), the whole files (R180, R220), and readers of the two
output formats. None of this is part of the block. -/

namespace Sys2Proof.Machine

/-! ## Runs -/

/-- `n` steps, stopping at the first fault or refusal. -/
def steps : Nat → State → Host.Outcome State Fault Refusal
  | 0, s => .next s
  | n + 1, s =>
    match step s with
    | .next t => steps n t
    | .fault r => .fault r
    | .refused r => .refused r

/-- What the host can see of a finished `WRITE`: `STATUS`, `ERR` and `OUT` (R252). -/
def hostView (x : Host.Outcome State Fault Refusal) : Option (Status × Err × Bytes) :=
  match x with
  | .next t => some (t.ctl.status, t.ctl.err, t.out)
  | .fault _ => none
  | .refused _ => none

/-! ## Register numbers -/

/-- The number of a control register that R22 reserves, in a block with `n` descriptors: between
NFRAMES and PAL, between PAL and FD, the fields 12 to 15 of a descriptor, and what follows the last
descriptor. -/
def reservedNumber (n reg : Nat) : Prop :=
  (0x07 ≤ reg ∧ reg < 0x10) ∨ (0x20 ≤ reg ∧ reg < 0x100) ∨
    (0x100 ≤ reg ∧ 12 ≤ reg % 16) ∨ 0x100 + 16 * n ≤ reg

/-- What the host gets from a read of a register: the data after the step that makes the read. -/
def hostReads (s : State) (reg : Nat) : Option (BitVec 32) :=
  match step (withQueue [.read reg] s) with
  | .next t => some t.host.data
  | .fault _ => none
  | .refused _ => none

/-! ## Invariants -/

/-- Cell memory keeps its canonical form and lists no address outside `CELLMEM_SIZE` (R54). -/
def MemoryInv (s : State) : Prop := memWf s.mem = true ∧ ∀ c ∈ s.mem, c.1 < s.par.cellMemSize

/-- Every option field holds a legal value (R26, R27, R31) and there are `NF_MAX` descriptors. -/
def ConfigInv (s : State) : Prop :=
  (s.ctl.defaultFmt = 1 ∨ s.ctl.defaultFmt = 2) ∧ s.ctl.cfgPng.compLevel.toNat ≤ 9 ∧
    s.ctl.fd.length = s.par.nfMax.toNat ∧ ∀ f ∈ s.ctl.fd, f.maskMode ≠ 3

/-- The phases before the first `Emit` of a `WRITE` (R250). -/
def beforeFirstEmit (p : BitVec 6) : Prop :=
  p = phaseValidate ∨ p = phaseRaster ∨ p = phaseAssemble ∨ p = phaseSig ∨ p = phaseGhdr

/-- The sequencer is in a state of the rules: `PHASE` is an assigned code (R98), it is IDLE exactly
when `STATUS.STATE` is not BUSY (R246, R251, R266), `OUT` is empty in the states IDLE and ERROR and
before the first `Emit` (R41, R264, R266), and `ERR` is 0 unless the last `WRITE` failed (R25). -/
def SequencerInv (s : State) : Prop :=
  (∃ i, decodePhase s.pc.phase = .ok i) ∧
    (s.pc.phase = phaseIdle ↔ s.ctl.status.state ≠ .busy) ∧
    (s.ctl.status.state = .idle → s.out = []) ∧
    (s.ctl.status.state = .error → s.out = []) ∧
    (beforeFirstEmit s.pc.phase → s.out = []) ∧
    (s.ctl.status.state ≠ .error → s.ctl.err = { code := 0, frame := 0 })

/-- The palette registers: `PLEN` is the length of `PLIST`, which holds no value twice and at most
15, and during a `WRITE` only values of `PAL[1..15]` (R38, R141). -/
def PaletteInv (s : State) : Prop :=
  s.pl.plen.toNat = s.pl.plist.length ∧ s.pl.plist.Nodup ∧ s.pl.plist.length ≤ 15 ∧
    (s.ctl.status.state = .busy →
      ∀ v ∈ s.pl.plist, ∃ c : ColourNo, c ≠ 0 ∧ palColour s.ctl c = v)

/-- The APNG sequence number by phase (R171): 0 until the first fcTL; `2k - 1` at the fcTL of
sub-frame `k` (0 for sub-frame 0); `2k` at its fdAT; `2*NSUB - 1` at IEND when there are two or more
sub-frames. -/
def SequenceInv (s : State) : Prop :=
  ((beforeFirstEmit s.pc.phase ∨ s.pc.phase = phaseIhdr ∨ s.pc.phase = phasePlte ∨
      s.pc.phase = phaseTrns) → s.png.seq = 0) ∧
    (s.pc.phase = phaseActl → 2 ≤ s.nsub.toNat ∧ s.png.seq = 0) ∧
    (s.pc.phase = phaseFctl →
      2 ≤ s.nsub.toNat ∧ s.pc.k.toNat < s.nsub.toNat ∧
        s.png.seq.toNat = 2 * s.pc.k.toNat - 1) ∧
    (s.pc.phase = phaseIdat → s.png.seq.toNat = if 2 ≤ s.nsub.toNat then 1 else 0) ∧
    (s.pc.phase = phaseFdat →
      1 ≤ s.pc.k.toNat ∧ s.pc.k.toNat < s.nsub.toNat ∧ s.png.seq.toNat = 2 * s.pc.k.toNat) ∧
    (s.pc.phase = phaseIend →
      s.png.seq.toNat = if 2 ≤ s.nsub.toNat then 2 * s.nsub.toNat - 1 else 0)

/-! ## What a frame shows (R117, R121 to R124) -/

/-- The input contract of a frame (R116): nothing is zero-size and the crop lies inside the native
image. -/
def FrameOk (f : FrameDesc) : Prop :=
  0 < f.rows.toNat ∧ 0 < f.cols.toNat ∧ 0 < f.scale.toNat ∧ 0 < f.cropW.toNat ∧
    0 < f.cropH.toNat ∧
    f.cropX.toNat + f.cropW.toNat ≤ 8 * f.scale.toNat * f.cols.toNat ∧
    f.cropY.toNat + f.cropH.toNat ≤ 8 * f.scale.toNat * f.rows.toNat

/-- The source column that grid column `x` shows: `(x0 + X) div s` (R117). -/
def sourceX (f : FrameDesc) (x : Nat) : Nat := (f.cropX.toNat + x) / f.scale.toNat

/-- The source row that grid row `y` shows: `(y0 + Y) div s` (R117). -/
def sourceY (f : FrameDesc) (y : Nat) : Nat := (f.cropY.toNat + y) / f.scale.toNat

/-- The address of the record of the cell that holds source pixel (`sx`, `sy`) (R50). -/
def recordAddr (f : FrameDesc) (sy sx : Nat) : Nat :=
  f.cellBase.toNat + 18 * (sy / 8 * f.cols.toNat + sx / 8)

/-- Every byte of every cell that the grid shows has been written and lies in cell memory (R51). -/
def CellsReadable (s : State) (f : FrameDesc) : Prop :=
  ∀ y x i, y < f.cropH.toNat → x < f.cropW.toNat → i < 18 →
    recordAddr f (sourceY f y) (sourceX f x) + i < s.par.cellMemSize ∧
      (memRead s.mem (recordAddr f (sourceY f y) (sourceX f x) + i)).isSome

/-- The number that byte `i` of the record of source pixel (`sx`, `sy`) holds. -/
def recordByte (s : State) (f : FrameDesc) (sy sx i : Nat) : Nat :=
  ((memRead s.mem (recordAddr f sy sx + i)).getD 0).toNat

/-- The colour number of the 3-bit field of an attribute byte that starts at bit `lo` (R71, R110): with
BRIGHT set, black is 1 and any other colour is 8 more than its field; with BRIGHT clear, 1 more. -/
def attrColour (attr lo : Nat) : Nat :=
  let c3 := attr / 2 ^ lo % 8
  if attr / 64 % 2 = 1 then (if c3 = 0 then 1 else 8 + c3) else 1 + c3

/-- The paper of source pixel (`sx`, `sy`): the field `attr[5:3]` (R71). -/
def sourcePaper (s : State) (f : FrameDesc) (sy sx : Nat) : Nat :=
  attrColour (recordByte s f sy sx 0) 3

/-- The ink of source pixel (`sx`, `sy`): the field `attr[2:0]` (R71). -/
def sourceInk (s : State) (f : FrameDesc) (sy sx : Nat) : Nat :=
  attrColour (recordByte s f sy sx 0) 0

/-- Whether the cell of source pixel (`sx`, `sy`) has effective flashing: FLASH set, paper and ink
different (R111), and `USE_FLASH` (R119 (b)). -/
def sourceFlashing (s : State) (f : FrameDesc) (sy sx : Nat) : Bool :=
  decide (recordByte s f sy sx 0 / 128 = 1 ∧ sourcePaper s f sy sx ≠ sourceInk s f sy sx) &&
    s.flg.useFlash

/-- The bit of source pixel (`sx`, `sy`) in the record's eight bytes from `base`, one byte a row, most
significant bit leftmost (R50, R53). -/
def sourceBit (s : State) (f : FrameDesc) (sy sx base : Nat) : Nat :=
  recordByte s f sy sx (base + sy % 8) / 2 ^ (7 - sx % 8) % 2

/-- What `PIXSEL` gives for source pixel (`sx`, `sy`) with `fg` in the place of ink and `bg` in the
place of paper: mode 1 is OR-AND, 2 AND-OR, 0 none (R113 to R115), the frame's where the record's
HAS_MASK is 1 and else none (R119 (a)). A frame's mode 3, which no register holds (R31), selects as
none (log 28). -/
def sourceSelect (s : State) (f : FrameDesc) (sy sx fg bg : Nat) : Nat :=
  let ink := sourceBit s f sy sx 2
  let mask := sourceBit s f sy sx 10
  let mode := if recordByte s f sy sx 1 % 2 = 1 then f.maskMode.toNat else 0
  if mode = 1 then (if mask = 0 then bg else if ink = 1 then fg else 0)
  else if mode = 2 then (if ink = 1 then fg else if mask = 1 then 0 else bg)
  else if ink = 1 then fg
  else bg

/-- `display` of a source pixel. -/
def sourceDisplay (s : State) (f : FrameDesc) (sy sx : Nat) : Nat :=
  sourceSelect s f sy sx (sourceInk s f sy sx) (sourcePaper s f sy sx)

/-- `alt` of a source pixel: ink and paper exchanged, transparent where `display` is (R113 to R115). -/
def sourceAlt (s : State) (f : FrameDesc) (sy sx : Nat) : Nat :=
  sourceSelect s f sy sx (sourcePaper s f sy sx) (sourceInk s f sy sx)

/-- `STEADY[y][x]` by R121: `display` of the source pixel that the element shows (R117). -/
def shownSteady (s : State) (f : FrameDesc) (y x : Nat) : ColourNo :=
  BitVec.ofNat 4 (sourceDisplay s f (sourceY f y) (sourceX f x))

/-- `ALT[y][x]` by R122: `alt` in a cell with effective flashing, else `display`. -/
def shownAlt (s : State) (f : FrameDesc) (y x : Nat) : ColourNo :=
  if sourceFlashing s f (sourceY f y) (sourceX f x) then
    BitVec.ofNat 4 (sourceAlt s f (sourceY f y) (sourceX f x))
  else shownSteady s f y x

/-- Whether grid element (`x`, `y`) is changed (R123). -/
def shownChanged (s : State) (f : FrameDesc) (y x : Nat) : Prop :=
  y < f.cropH.toNat ∧ x < f.cropW.toNat ∧ sourceFlashing s f (sourceY f y) (sourceX f x) = true ∧
    shownSteady s f y x ≠ 0

/-- `PLIST` and `PLEN` as `PALADD` builds them (R38, R141): `PLEN` is the length, no value occurs
twice, and each is the value of a real colour number. -/
def PaletteBuilt (s : State) : Prop :=
  s.pl.plen.toNat = s.pl.plist.length ∧ s.pl.plist.Nodup ∧
    ∀ v ∈ s.pl.plist, ∃ c : ColourNo, c ≠ 0 ∧ palColour s.ctl c = v

/-- What `PALADD(c)` does to the palette registers while `PLEN` is below 256 (R141). -/
def addColour (ctl : Control) (p : PaletteRegs) (c : ColourNo) : PaletteRegs :=
  if c = 0 then { p with hasTrans := true }
  else if palColour ctl c ∈ p.plist then p
  else { p with plist := p.plist ++ [palColour ctl c], plen := p.plen + 1 }

/-- Whether some grid column below `w` shows source column `p` (R117). -/
def columnShown (f : FrameDesc) (p : Nat) : Bool :=
  (List.range f.cropW.toNat).any fun x => sourceX f x = p

/-- Whether some grid row shows source row `p` (R117). -/
def rowShown (f : FrameDesc) (p : Nat) : Bool :=
  (List.range f.cropH.toNat).any fun y => sourceY f y = p

/-- The colour numbers passed to `PALADD` for source pixel (`sx`, `sy`) (R142): `display`, then `alt`
in a cell with effective flashing. -/
def pixelAdds (s : State) (f : FrameDesc) (sy sx : Nat) : List ColourNo :=
  if sourceFlashing s f sy sx then
    [BitVec.ofNat 4 (sourceDisplay s f sy sx), BitVec.ofNat 4 (sourceAlt s f sy sx)]
  else [BitVec.ofNat 4 (sourceDisplay s f sy sx)]

/-- The colour numbers passed to `PALADD` by `RASTER` of frame `f`, in the order of R120's loops
(R142): cells row-major, source pixels row-major inside a cell, the visited ones only. -/
def frameAdds (s : State) (f : FrameDesc) : List ColourNo :=
  (List.range f.rows.toNat).flatMap fun cr => (List.range f.cols.toNat).flatMap fun cc =>
    (List.range 8).flatMap fun py => (List.range 8).flatMap fun px =>
      if columnShown f (8 * cc + px) && rowShown f (8 * cr + py) then
        pixelAdds s f (8 * cr + py) (8 * cc + px)
      else []

/-! ## The whole files (R180, R220) -/

/-- The chunks of a later sub-frame `k`: its fcTL numbered `2k - 1`, its fdAT numbered `2k` (R171). -/
def pngLaterChunks (s : State) (depth : BitVec 4) (k : Nat) : Bytes :=
  chunkBytes typeFctl (fctlData (BitVec.ofNat 32 (2 * k - 1)) (subFrame s k)) ++
    chunkBytes typeFdat (be32 (BitVec.ofNat 32 (2 * k)) ++
      deflate s.par.port s.ctl.cfgPng.compLevel (packScan (subFrame s k) depth.toNat))

/-- The PNG file of the state before `SIG` (R180). -/
def pngFile (s : State) : Bytes :=
  let depth := depthFor (paletteLen s.ctl s.pl)
  pngSignature ++ chunkBytes typeIhdr (ihdrData (subFrame s 0) depth) ++
    chunkBytes typePlte (plteData (palette s.ctl s.pl)) ++
    (if emitsTrns s then chunkBytes typeTrns [s.ctl.cfgPng.alpha] else []) ++
    (if animated s then
      chunkBytes typeActl (actlData s.nsub) ++ chunkBytes typeFctl (fctlData 0 (subFrame s 0))
      else []) ++
    chunkBytes typeIdat
      (deflate s.par.port s.ctl.cfgPng.compLevel (packScan (subFrame s 0) depth.toNat)) ++
    (List.range (s.nsub.toNat - 1)).flatMap (fun j => pngLaterChunks s depth (j + 1)) ++
    chunkBytes typeIend []

/-- The image data of a sub-frame as bytes (R208): `MINCODE` and the sub-blocks. -/
def imageBytes (n : Nat) (f : SubFrame) : Bytes :=
  match imageData n f with
  | .ok bg => bg.1
  | .refuse _ => []
  | .fault _ => []

/-- The blocks of sub-frame `k` (R220). -/
def gifSubBlocks (s : State) (k : Nat) : Bytes :=
  (if emitsGce s then gceBytes s.par.gifDisposal s.flg.tflag (subFrame s k) else []) ++
    imgdescBytes (subFrame s k) ++ imageBytes (paletteLen s.ctl s.pl) (subFrame s k)

/-- The GIF file of the state before `GHDR` (R220). -/
def gifFile (s : State) : Bytes :=
  gifHeader ++ lsdBytes (subFrame s 0) (paletteLen s.ctl s.pl) ++ gctBytes (palette s.ctl s.pl) ++
    (if animated s then appextBytes else []) ++
    (List.range s.nsub.toNat).flatMap (gifSubBlocks s) ++ [0x3B]

/-! ## Readers of the output -/

/-- The number that four bytes stand for, most significant first (R11). -/
def readBe32 (b : Bytes) : Nat :=
  ((b.getD 0 0).toNat * 256 + (b.getD 1 0).toNat) * 65536 + (b.getD 2 0).toNat * 256 +
    (b.getD 3 0).toNat

/-- A reader of one chunk (R72): the type, the data and the rest, if the length fits and the CRC is
that of type and data. -/
def readChunk (b : Bytes) : Option (Bytes × Bytes × Bytes) :=
  let len := readBe32 b
  let type := (b.drop 4).take 4
  let data := (b.drop 8).take len
  let crc := (b.drop (8 + len)).take 4
  if 12 + len ≤ b.length ∧ crc = be32 (crc32 (type ++ data)) then
    some (type, data, b.drop (12 + len))
  else none

/-- A reader of sub-blocks (R91): it follows the length bytes until it reads a 0, and answers the
bytes and the rest. -/
def readSubBlocks : Nat → Bytes → Option (Bytes × Bytes)
  | 0, _ => none
  | _ + 1, [] => none
  | fuel + 1, len :: rest =>
    if len = 0 then some ([], rest)
    else if rest.length < len.toNat then none
    else
      match readSubBlocks fuel (rest.drop len.toNat) with
      | none => none
      | some (bytes, tail) => some (rest.take len.toNat ++ bytes, tail)

/-- The bits of a byte string, least significant bit of each byte first. -/
def bitsLsbFirst (b : Bytes) : List Bool :=
  b.flatMap fun x => (List.range 8).map fun i => x.getLsbD i

/-- The bits of a byte string, most significant bit of each byte first. -/
def bitsMsbFirst (b : Bytes) : List Bool :=
  b.flatMap fun x => (List.range 8).map fun i => x.getLsbD (7 - i)

/-- The bits of a code at its width, least significant first. -/
def codeBits (c : Code) : List Bool := (List.range c.width.toNat).map fun i => c.code.getLsbD i

/-- The low `d` bits of a palette index, most significant first. -/
def indexBits (d : Nat) (p : BitVec 8) : List Bool :=
  (List.range d).map fun i => p.getLsbD (d - 1 - i)

/-- The string that a code stands for in a decoder whose table holds `table` (code `2^m + 2` first),
`prev` being the string of the code before it: the code just being defined stands for `prev` and its
own first pixel. -/
def lzwString (m : Nat) (table : List (List (BitVec 8))) (prev : List (BitVec 8)) (c : Nat) :
    Option (List (BitVec 8)) :=
  if c < 2 ^ m then some [BitVec.ofNat 8 c]
  else if c = 2 ^ m + 2 + table.length then some (prev ++ prev.take 1)
  else if 2 ^ m + 2 ≤ c then table[c - (2 ^ m + 2)]?
  else none

/-- A standard GIF LZW decoder (R213): it knows the width of the next code by itself, and a code
written with another width is an error. It adds one entry for every data code after the first since
a `CLEAR`, and widens when the next code to assign needs it. -/
def lzwDecode (m : Nat) :
    Nat → List (List (BitVec 8)) → Option (List (BitVec 8)) → List Code → Option (List (BitVec 8))
  | _, _, _, [] => none
  | width, table, prev, c :: cs =>
    if c.width.toNat ≠ width then none
    else if c.code.toNat = 2 ^ m then lzwDecode m (m + 1) [] none cs
    else if c.code.toNat = 2 ^ m + 1 then (if cs = [] then some [] else none)
    else
      match prev with
      | none =>
        if c.code.toNat < 2 ^ m then
          (lzwDecode m width table (some [BitVec.ofNat 8 c.code.toNat]) cs).map
            ([BitVec.ofNat 8 c.code.toNat] ++ ·)
        else none
      | some p =>
        match lzwString m table p c.code.toNat with
        | none => none
        | some str =>
          let table' := if 2 ^ m + 2 + table.length < 4096 then table ++ [p ++ str.take 1] else table
          let width' := if 2 ^ m + 2 + table'.length = 2 ^ width ∧ width < 12 then width + 1 else width
          (lzwDecode m width' table' (some str) cs).map (str ++ ·)

/-- `SUBBLOCK` as its rule writes it (R215), at most `fuel` sub-blocks. -/
def subBlockRule : Nat → Bytes → Bytes
  | 0, _ => [0x00]
  | fuel + 1, b =>
    if b = [] then [0x00]
    else byteOf (min 255 b.length) :: (b.take 255 ++ subBlockRule fuel (b.drop 255))

end Sys2Proof.Machine
end

