-- ==== Sys2Proof/WellFormed.lean ====
section
/-! DEFINITION. The operand contracts of the rules, as a check on an instruction. The `PHASE`
operations and `WRITE` have no contract on their bits; the datapath functions have the ones their
rules state. -/

namespace Sys2Proof

/-- A colour number that `ATTRDEC` can return as ink or paper: 1..15 (R110). -/
def Instr.realColour (c : ColourNo) : Bool := c ≠ 0

/-- A bit depth of R42: 1, 2, 4 or 8. -/
def Instr.depthOk (d : BitVec 4) : Bool := d = 1 || d = 2 || d = 4 || d = 8

/-- A code that fits the width it is written with, the width being one of R43's (3..12). -/
def Instr.codeOk (c : Code) : Bool :=
  3 ≤ c.width.toNat && c.width.toNat ≤ 12 && c.code.toNat < 2 ^ c.width.toNat

/-- The operand contracts: `PIXSEL`'s colours (R110), `CHUNK`'s length (R163), `PACKSCAN`'s depth
(R177), `DEFLATE`'s level (R176), `LZW`'s pixels and code size (R209, R211), `BITPACK`'s codes
(R43, R213). -/
def WellFormed : Instr → Bool
  | .pixselNone _ _ paper ink => Instr.realColour paper && Instr.realColour ink
  | .pixselOrand _ _ paper ink => Instr.realColour paper && Instr.realColour ink
  | .pixselAndor _ _ paper ink => Instr.realColour paper && Instr.realColour ink
  | .chunk _ data => data.length < 2 ^ 31
  | .packscan _ d => Instr.depthOk d
  | .deflate level _ => level.toNat ≤ 9
  | .lzw pixels m =>
      2 ≤ m.toNat && m.toNat ≤ 8 && !pixels.isEmpty && pixels.all fun p => p.toNat < 2 ^ m.toNat
  | .bitpack codes => codes.all Instr.codeOk
  | .write _ | .idle | .validate | .raster | .assemble | .sig | .ihdr | .plte | .trns | .actl
  | .fctl | .idat | .fdat | .iend | .ghdr | .lsd | .gct | .appext | .gce | .imgdesc | .imgdata
  | .trailer | .finish | .attrdec _ | .paladd _ | .indexmap _ | .crc32 _ | .subblock _ => true

end Sys2Proof
end

