-- ==== Sys2Proof/Certificates/Slice0/Obligations.lean ====
section
/-! DEFINITION. The statements for the provers. Three things in them are the model's own and no rule
of the spec: the host's queue and latches `host` (log 2), the latch `fout` of a datapath function
executed alone (log 4), and the parameters `par` (log 5). -/

open Sys2Proof Sys2Proof.Machine

/-! ## Encodings -/

/-- Decode and encode agree: decoding the bits of an operation that has a code gives the operation
back, and an operation read from a `PHASE` code, a `CMD` byte or an attribute byte encodes to those
bits, the ignored bits `v[7:6]` of `CMD` aside (R71, R97, R98). -/
def Obligations.DecodeEncodeAgree : Prop :=
  (∀ (i : Instr) (e : Encoded), encode i = some e → decode e = .ok i) ∧
    (∀ (code : BitVec 6) (i : Instr),
      decode (.phase code) = .ok i → encode i = some (.phase code)) ∧
    (∀ (v : Byte) (i : Instr), decode (.cmd v) = .ok i → encode i = some (.cmd (v &&& 0x3F))) ∧
    (∀ (a : Byte) (i : Instr), decode (.attrByte a) = .ok i → encode i = some (.attrByte a))

/-- A few words written out from R97 and R98 decode to the operations they stand for. -/
def Obligations.WrittenWordsDecode : Prop :=
  decode (.cmd 0b00010001) = .ok (.write 1) ∧ decode (.cmd 0b11100001) = .ok (.write 2) ∧
    decode (.phase 0b000010) = .ok .raster ∧ decode (.phase 0b010111) = .ok .fdat ∧
    decode (.phase 0b100110) = .ok .imgdata ∧ decode (.phase 0b111111) = .ok .finish ∧
    decode (.phase 0b000100) = .error (.unassignedPhase 4) ∧
    decode (.attrByte 0b10001110) = .ok (.attrdec 0x8E)

/-- R23, R100: a host write to `CMD` with `OP` not 1, while the block is not BUSY, changes nothing
(but that the host's access has been made). -/
def Obligations.ReservedCommandIgnored : Prop :=
  ∀ (s : State) (v : BitVec 32) (q : List HostReq),
    s.host.queue = .write 0x00 v :: q → s.ctl.status.state ≠ .busy → v.extractLsb' 0 4 ≠ 1 →
      step s = .next (withQueue q s)

/-- A step runs the decoded operation: the one `PHASE` names when the host's queue is empty, when its
next entry is `tick`, and when it is `wait` and the block is BUSY (the entry then stays); and the
`WRITE` of a `CMD` byte when the host writes one while the block is not BUSY. The queue is the
model's own (log 2). -/
def Obligations.StepRunsDecodedOperation : Prop :=
  (∀ (s : State) (i : Instr),
      s.host.queue = [] → decode (.phase s.pc.phase) = .ok i → step s = exec i s) ∧
    (∀ (s : State) (i : Instr) (q : List HostReq),
      s.host.queue = .tick :: q → decode (.phase s.pc.phase) = .ok i →
        step s = exec i (withQueue q s)) ∧
    (∀ (s : State) (i : Instr) (q : List HostReq),
      s.host.queue = .wait :: q → s.ctl.status.state = .busy →
        decode (.phase s.pc.phase) = .ok i → step s = exec i s) ∧
    (∀ (s : State) (i : Instr) (v : BitVec 32) (q : List HostReq),
      s.host.queue = .write 0x00 v :: q → s.ctl.status.state ≠ .busy →
        decode (.cmd (v.extractLsb' 0 8)) = .ok i → step s = exec i (withQueue q s))

/-! ## The facade: WRITE, IDLE, FINISH -/

/-- R46, R246: an accepted `WRITE` empties `OUT`, clears `ERR`, `PLIST`, `PLEN`, `HAS_TRANS`, every
`BOXV`, `NSUB`, `SEQ`, `FI` and `K`, sets `STATUS.STATE` to BUSY, sets `EFMT` and `USE_FLASH`, and
sets `PHASE` to VALIDATE; control registers other than `STATUS` and `ERR`, cell memory and
`STATUS.FAULT` keep their values. That the earlier frame sets and sub-frame table are dropped is
log 24. -/
def Obligations.WriteAccepted : Prop :=
  ∀ (fmt efmt : BitVec 2) (s : State),
    s.ctl.status.state ≠ .busy → (∀ c : ColourNo, c ≠ 0 → palColour s.ctl c ≠ palColour s.ctl 0) →
    (fmt = 0 ∧ efmt = s.ctl.defaultFmt ∨ fmt = 1 ∧ efmt = 1 ∨ fmt = 2 ∧ efmt = 2) →
    ¬(2 ≤ s.ctl.nframes.toNat ∧
        (if efmt = 1 then s.ctl.cfgPng.pngAnim else s.ctl.cfgGif.gifAnim) = false) →
    ∃ t, exec (.write fmt) s = .next t ∧
      t.out = [] ∧ t.pl = { plist := [], plen := 0, hasTrans := false } ∧
      (∀ i, (frameSet t i).boxv = false) ∧ t.sets = [] ∧ t.sf = [] ∧ t.nsub = 0 ∧
      t.png = { s.png with seq := 0 } ∧
      t.pc = { phase := 0x01, fi := 0, k := 0 } ∧
      t.ctl =
        { s.ctl with
          err := { code := 0, frame := 0 }
          status := { state := .busy, fault := s.ctl.status.fault } } ∧
      t.flg =
        { efmt := efmt
          useFlash :=
            decide (s.ctl.nframes = 1) &&
              (if efmt = 1 then s.ctl.cfgPng.pngAnim else s.ctl.cfgGif.gifAnim)
          tflag := s.flg.tflag } ∧
      (∀ a, memRead t.mem a = memRead s.mem a) ∧ t.par = s.par ∧ t.gif = s.gif ∧
      t.fout = s.fout ∧ t.host = s.host

/-- R261, R266: `WRITE` with `FMT = 3` raises E_FORMAT: `ERR` is (1, 0), `OUT` is empty,
`STATUS.STATE` is ERROR, `PHASE` is IDLE; the other control registers, cell memory and
`STATUS.FAULT` keep their values. The working state is as R46 leaves it, the rest of it unchanged
(log 24). -/
def Obligations.WriteUnsupportedFormat : Prop :=
  ∀ s : State,
    s.ctl.status.state ≠ .busy → (∀ c : ColourNo, c ≠ 0 → palColour s.ctl c ≠ palColour s.ctl 0) →
    ∃ t, exec (.write 3) s = .next t ∧ t.out = [] ∧
      t.ctl =
        { s.ctl with
          err := { code := 1, frame := 0 }
          status := { state := .error, fault := s.ctl.status.fault } } ∧
      t.pc = { phase := 0x00, fi := 0, k := 0 } ∧
      t.pl = { plist := [], plen := 0, hasTrans := false } ∧ t.sets = [] ∧ t.sf = [] ∧ t.nsub = 0 ∧
      t.png = { s.png with seq := 0 } ∧ t.flg = s.flg ∧ t.gif = s.gif ∧ t.fout = s.fout ∧
      (∀ a, memRead t.mem a = memRead s.mem a) ∧ t.par = s.par ∧ t.host = s.host

/-- The refused cases of `WRITE`: while BUSY (U8), with the sentinel condition broken (U3, R33), and
with two or more frames and the effective format's animation flag 0 (U5, R248), the effective format
being png, gif or, with the operand 0, the configured default. The order of these
checks among themselves is the model's choice (log 20). -/
def Obligations.WriteRefusedCases : Prop :=
  (∀ (fmt : BitVec 2) (s : State),
      s.ctl.status.state = .busy → exec (.write fmt) s = .refused .hostWhileBusy) ∧
    (∀ (fmt : BitVec 2) (s : State) (c : ColourNo),
      s.ctl.status.state ≠ .busy → c ≠ 0 → palColour s.ctl c = palColour s.ctl 0 →
        exec (.write fmt) s = .refused .sentinelCollision) ∧
    ∀ (fmt efmt : BitVec 2) (s : State),
      s.ctl.status.state ≠ .busy → (∀ c : ColourNo, c ≠ 0 → palColour s.ctl c ≠ palColour s.ctl 0) →
      (fmt = 0 ∧ efmt = s.ctl.defaultFmt ∨ fmt = 1 ∧ efmt = 1 ∨ fmt = 2 ∧ efmt = 2) →
      2 ≤ s.ctl.nframes.toNat →
      (if efmt = 1 then s.ctl.cfgPng.pngAnim else s.ctl.cfgGif.gifAnim) = false →
        exec (.write fmt) s = .refused .animationDisabled

/-- R251: `FINISH` sets `STATUS.STATE` to DONE and `PHASE` to IDLE and changes nothing else; `IDLE`
is no operation (R98). -/
def Obligations.FinishAndIdleComplete : Prop :=
  (∀ s : State,
      exec .finish s =
        .next
          { s with
            ctl := { s.ctl with status := { s.ctl.status with state := .done } }
            pc := { s.pc with phase := 0x00 } }) ∧
    ∀ s : State, exec .idle s = .next s

/-- R266: error entry writes `ERR`, empties `OUT`, sets `STATUS.STATE` to ERROR and `PHASE` to IDLE,
and changes nothing else. -/
def Obligations.ErrorEntryWrites : Prop :=
  ∀ (code : BitVec 4) (frame : BitVec 8) (s : State),
    raiseError code frame s =
      { s with
        ctl :=
          { s.ctl with
            err := { code := code, frame := frame }
            status := { state := .error, fault := s.ctl.status.fault } }
        out := []
        pc := { phase := 0x00, fi := s.pc.fi, k := s.pc.k } }

/-! ## The pixel compositor -/

/-- R110 to R112: `ATTRDEC` on every byte, by the arithmetic of the rule: bright black collapses to
black, and a cell flashes iff FLASH is set and paper differs from ink. Neither colour is ever 0, the
colours do not depend on FLASH, and exactly 16 of the 128 bytes with FLASH set do not flash
(spec/95_test_vectors.md section 2). That a function alone leaves its result in `fout` is the
model's choice (log 4). -/
def Obligations.AttrdecDecodesEveryByte : Prop :=
  (∀ a : Byte, (attrDec a).paper ≠ 0 ∧ (attrDec a).ink ≠ 0 ∧
    (attrDec a).paper = (attrDec (a &&& 0x7F)).paper ∧
    (attrDec a).ink = (attrDec (a &&& 0x7F)).ink) ∧
  ((List.range 256).filter fun n =>
    128 ≤ n && !(attrDec (BitVec.ofNat 8 n)).flashing).length = 16 ∧
  ∀ (a : Byte) (s : State),
    let colour := fun (c3 : Nat) =>
      if 64 ≤ a.toNat % 128 then (if c3 = 0 then 1 else 8 + c3) else 1 + c3
    let ink := colour (a.toNat % 8)
    let paper := colour (a.toNat / 8 % 8)
    exec (.attrdec a) s =
      .next
        { s with
          fout :=
            .attr (BitVec.ofNat 4 paper) (BitVec.ofNat 4 ink)
              (decide (128 ≤ a.toNat ∧ paper ≠ ink)) }

/-- R113, R114, R115: what the three `PIXSEL` modes return, mode none ignoring the mask bit; nothing
but the result changes (that it stands in `fout` is the model's choice, log 4). For distinct paper
and ink the two masked modes differ in exactly one input, ink bit 1 with mask bit 0. -/
def Obligations.PixselReturnsByMode : Prop :=
  (∀ (inkBit maskBit : Bool) (paper ink : ColourNo),
    paper ≠ ink →
      (pixselOrand inkBit maskBit paper ink ≠ pixselAndor inkBit maskBit paper ink ↔
        inkBit = true ∧ maskBit = false)) ∧
  ∀ (inkBit maskBit : Bool) (paper ink : ColourNo) (s : State),
    exec (.pixselNone inkBit maskBit paper ink) s =
        .next { s with fout := if inkBit then .pixel ink paper else .pixel paper ink } ∧
      exec (.pixselOrand inkBit maskBit paper ink) s =
        .next
          { s with
            fout :=
              if maskBit = false then .pixel paper ink
              else if inkBit then .pixel ink paper
              else .pixel 0 0 } ∧
      exec (.pixselAndor inkBit maskBit paper ink) s =
        .next
          { s with
            fout :=
              if inkBit then .pixel ink paper
              else if maskBit then .pixel 0 0
              else .pixel paper ink }

/-- R116: `VALIDATE` passes on to RASTER of frame 0 when there are 1 to `NF_MAX` frames that all meet
the contract; else it raises the first failing check: the frame count, then the frames in index
order, the zero-size test before the crop test (R264). That an error leaves FI alone, whichever frame
it is of, is the model's choice (log 31). -/
def Obligations.ValidateChecksContract : Prop :=
  ∀ s : State,
    let n := s.ctl.nframes.toNat
    ((n = 0 ∨ s.par.nfMax.toNat < n) → exec .validate s = .next (raiseError 2 0 s)) ∧
      (1 ≤ n → n ≤ s.par.nfMax.toNat →
        ((∀ i, i < n → FrameOk (frameDesc s.ctl i)) →
          exec .validate s = .next { s with pc := { s.pc with phase := 0x02, fi := 0 } }) ∧
        (∀ i, i < n → (∀ j, j < i → FrameOk (frameDesc s.ctl j)) →
          let f := frameDesc s.ctl i
          ((f.rows = 0 ∨ f.cols = 0 ∨ f.scale = 0 ∨ f.cropW = 0 ∨ f.cropH = 0) →
            exec .validate s = .next (raiseError 2 (BitVec.ofNat 8 i) s)) ∧
          (f.rows ≠ 0 → f.cols ≠ 0 → f.scale ≠ 0 → f.cropW ≠ 0 → f.cropH ≠ 0 →
            (8 * f.scale.toNat * f.cols.toNat < f.cropX.toNat + f.cropW.toNat ∨
              8 * f.scale.toNat * f.rows.toNat < f.cropY.toNat + f.cropH.toNat) →
            exec .validate s = .next (raiseError 3 (BitVec.ofNat 8 i) s))))

/-- R118: every grid column below `w` lies in the span of exactly one source column, the one that
R117's formula names; likewise for rows. -/
def Obligations.SpansPartitionTheGrid : Prop :=
  ∀ (s x0 w x p : Nat), 0 < s → x < w →
    (spanLo p s x0 ≤ x ∧ x < spanHi p s x0 w ↔ p = (x0 + x) / s)

/-- R121, R122: `RASTER` of a frame that meets the contract, with the cells it shows readable,
completes: every element of the frame's grids is what `PIXSEL` gives for the source pixel that R117
says it shows, computed from the bytes of its record (R50, R53, R110 to R115, R119), and only that
frame's set, the palette registers and the program counter change; the next operation is RASTER of the
next frame or ASSEMBLE (R250). The model's choices in it: after the last frame FI stays at that frame's
index (log 16), the cells that the grid does not show need not be readable (log 21), and a MASK_MODE of
3, which no register holds, selects as none (log 28). -/
def Obligations.RasterPaintsWhatTheFrameShows : Prop :=
  ∀ s : State,
    let i := s.pc.fi.toNat
    let f := frameDesc s.ctl i
    FrameOk f → CellsReadable s f → PaletteBuilt s →
    ∃ t, exec .raster s = .next t ∧
      t = { s with
        pl := t.pl
        sets := t.sets
        pc :=
          if i + 1 < s.ctl.nframes.toNat then
            { s.pc with phase := 0x02, fi := BitVec.ofNat 8 (i + 1) }
          else { s.pc with phase := 0x03 } } ∧
      (∀ j, j ≠ i → frameSet t j = frameSet s j) ∧
      ∀ (v : ColourNo) (y x : Nat), y < f.cropH.toNat → x < f.cropW.toNat →
        gridAt v (frameSet t i).steady y x = shownSteady s f y x ∧
          gridAt v (frameSet t i).alt y x = shownAlt s f y x

/-- R123, R124: an element is changed exactly where the steady and the alternate grid differ; and
after such a `RASTER`, `BOXV = 1` iff some grid element is changed, and then the box holds every
changed element and each of its four bounds is reached by one. That a MASK_MODE of 3 selects as none is
the model's choice (log 28). -/
def Obligations.RasterBoxIsMinimal : Prop :=
  (∀ (s : State) (f : FrameDesc) (y x : Nat),
    y < f.cropH.toNat → x < f.cropW.toNat →
      (shownChanged s f y x ↔ shownSteady s f y x ≠ shownAlt s f y x)) ∧
  ∀ s t : State,
    let i := s.pc.fi.toNat
    let f := frameDesc s.ctl i
    FrameOk f → CellsReadable s f → PaletteBuilt s → exec .raster s = .next t →
    let b := frameSet t i
    (b.boxv = true ↔ ∃ y x, shownChanged s f y x) ∧
      (b.boxv = true →
        (∀ y x, shownChanged s f y x →
          b.minx.toNat ≤ x ∧ x ≤ b.maxx.toNat ∧ b.miny.toNat ≤ y ∧ y ≤ b.maxy.toNat) ∧
        (∃ y, shownChanged s f y b.minx.toNat) ∧ (∃ y, shownChanged s f y b.maxx.toNat) ∧
        (∃ x, shownChanged s f b.miny.toNat x) ∧ (∃ x, shownChanged s f b.maxy.toNat x))

/-- R120, R142: after such a `RASTER` the palette registers are those left by `PALADD` of the visited
source pixels' colours in the order of R120's loops, `display` before `alt`; nothing earlier is
dropped. That a MASK_MODE of 3 selects as none is the model's choice (log 28). -/
def Obligations.RasterAddsColoursInLoopOrder : Prop :=
  ∀ s t : State,
    let f := frameDesc s.ctl s.pc.fi.toNat
    FrameOk f → CellsReadable s f → PaletteBuilt s → exec .raster s = .next t →
      t.pl = (frameAdds s f).foldl (addColour s.ctl) s.pl ∧ s.pl.plist <+: t.pl.plist

/-- R125 (d): with `USE_FLASH = 0` a `RASTER` that raises no fault leaves `BOXV = 0`, and the
alternate grid equal to the steady grid. -/
def Obligations.NoFlashNoBox : Prop :=
  ∀ s t : State,
    s.flg.useFlash = false → s.ctl.status.fault = false → exec .raster s = .next t →
    t.ctl.status.fault = false →
      (frameSet t s.pc.fi.toNat).boxv = false ∧
        (frameSet t s.pc.fi.toNat).alt = (frameSet t s.pc.fi.toNat).steady

/-- R51, U1, U2: a `RASTER` of a frame that meets the contract, from palette registers that `PALADD`
built, is refused when a cell that the grid shows has a byte that was never written or that lies
beyond cell memory. That all 18 bytes of a shown cell count, and no others, is log 21. -/
def Obligations.RasterRefusesUnreadableCells : Prop :=
  ∀ s : State,
    let f := frameDesc s.ctl s.pc.fi.toNat
    FrameOk f → PaletteBuilt s → ¬ CellsReadable s f → ∃ r, exec .raster s = .refused r

/-! ## The frame assembler -/

/-- R141: `PALADD`: transparent sets `HAS_TRANS`; a colour already listed changes nothing; a new one
is appended and counted; and with `PLEN = 256` it raises F_PALETTE (R260) by R268: `ERR` (8, 0),
`STATUS.FAULT` set, `OUT` emptied, ERROR, IDLE. The model's choices in it: the working state stays as it
was after the fault (log 26), and a `PLEN` above 256, which no rule gives, is counted modulo 512
(log 25). -/
def Obligations.PaladdByCase : Prop :=
  ∀ (c : ColourNo) (s : State),
    (c = 0 → exec (.paladd c) s = .next { s with pl := { s.pl with hasTrans := true } }) ∧
      (c ≠ 0 → palColour s.ctl c ∈ s.pl.plist → exec (.paladd c) s = .next s) ∧
      (c ≠ 0 → palColour s.ctl c ∉ s.pl.plist → s.pl.plen ≠ 256 →
        exec (.paladd c) s =
          .next
            { s with
              pl :=
                { s.pl with
                  plist := s.pl.plist ++ [palColour s.ctl c], plen := s.pl.plen + 1 } }) ∧
      (c ≠ 0 → palColour s.ctl c ∉ s.pl.plist → s.pl.plen = 256 →
        exec (.paladd c) s =
          .next
            { s with
              ctl :=
                { s.ctl with
                  err := { code := 8, frame := 0 }, status := { state := .error, fault := true } }
              out := []
              pc := { s.pc with phase := 0x00 } })

/-- R144: `INDEXMAP`: 0 for transparent; for a real colour the position of its value in the Palette,
with the sentinel at position 0 iff `HAS_TRANS = 1` (R143). It completes on a colour that was never
added too; the index is then a free value (log 14). -/
def Obligations.IndexmapFindsThePosition : Prop :=
  (∀ s : State, exec (.indexmap 0) s = .next { s with fout := .index 0 }) ∧
    (∀ (c : ColourNo) (s : State) (i : Nat),
      c ≠ 0 → i < 256 →
      let p := if s.pl.hasTrans then palColour s.ctl 0 :: s.pl.plist else s.pl.plist
      p[i]? = some (palColour s.ctl c) → (∀ j, j < i → p[j]? ≠ some (palColour s.ctl c)) →
        exec (.indexmap c) s = .next { s with fout := .index (BitVec.ofNat 8 i) }) ∧
    ∀ (c : ColourNo) (s : State), ∃ i, exec (.indexmap c) s = .next { s with fout := .index i }

/-- R145 with one frame: sub-frame 0 is the frame; with a flash box there is a second one, the
alternate grid inside the box at the frame's offset plus the box origin, with the same delay
(R147). Then the encoder of `EFMT` (R250); for GIF, `TFLAG` is computed here (R206, log 16). -/
def Obligations.AssembleOneFrame : Prop :=
  ∀ s : State,
    let f := frameDesc s.ctl 0
    let b := frameSet s 0
    s.ctl.nframes = 1 →
    (b.boxv = true → b.minx.toNat ≤ b.maxx.toNat ∧ b.miny.toNat ≤ b.maxy.toNat ∧
      b.maxx.toNat < f.cropW.toNat ∧ b.maxy.toNat < f.cropH.toNat) →
    ∃ t, exec .assemble s = .next t ∧
      t = { s with
        sf := t.sf
        nsub := if b.boxv then 2 else 1
        flg :=
          { s.flg with
            tflag :=
              if s.flg.efmt = 1 then s.flg.tflag else s.ctl.cfgGif.gifTrans && s.pl.hasTrans }
        pc := { s.pc with phase := if s.flg.efmt = 1 then 0x10 else 0x20 } } ∧
      t.sf.length = (if b.boxv then 2 else 1) ∧
      (let g := subFrame t 0
       g.w = f.cropW ∧ g.h = f.cropH ∧ g.x.toNat = f.offX.toNat ∧ g.y.toNat = f.offY.toNat ∧
        g.delay = f.delay ∧
        ∀ y x, y < f.cropH.toNat → x < f.cropW.toNat →
          idxAt g y x = indexMap s.ctl s.pl (gridAt (Config.gridUnwritten y x) b.steady y x)) ∧
      (b.boxv = true →
        let g := subFrame t 1
        g.w.toNat = b.maxx.toNat - b.minx.toNat + 1 ∧
          g.h.toNat = b.maxy.toNat - b.miny.toNat + 1 ∧
          g.x.toNat = f.offX.toNat + b.minx.toNat ∧ g.y.toNat = f.offY.toNat + b.miny.toNat ∧
          g.delay = f.delay ∧
          ∀ y x, y < g.h.toNat → x < g.w.toNat →
            idxAt g y x =
              indexMap s.ctl s.pl
                (gridAt (Config.gridUnwritten (b.miny.toNat + y) (b.minx.toNat + x)) b.alt
                  (b.miny.toNat + y) (b.minx.toNat + x)))

/-- R145 with two or more frames: one sub-frame per frame, in index order, with the frame's size,
offset and delay and the indices of its steady grid. Then the encoder of `EFMT` (R250); for GIF,
`TFLAG` is computed here (R206, log 16). -/
def Obligations.AssembleSeveralFrames : Prop :=
  ∀ s : State, 2 ≤ s.ctl.nframes.toNat →
    ∃ t, exec .assemble s = .next t ∧
      t = { s with
        sf := t.sf
        nsub := s.ctl.nframes
        flg :=
          { s.flg with
            tflag :=
              if s.flg.efmt = 1 then s.flg.tflag else s.ctl.cfgGif.gifTrans && s.pl.hasTrans }
        pc := { s.pc with phase := if s.flg.efmt = 1 then 0x10 else 0x20 } } ∧
      t.sf.length = s.ctl.nframes.toNat ∧
      ∀ i, i < s.ctl.nframes.toNat →
        let f := frameDesc s.ctl i
        let g := subFrame t i
        g.w = f.cropW ∧ g.h = f.cropH ∧ g.x.toNat = f.offX.toNat ∧ g.y.toNat = f.offY.toNat ∧
          g.delay = f.delay ∧
          ∀ y x, y < f.cropH.toNat → x < f.cropW.toNat →
            idxAt g y x =
              indexMap s.ctl s.pl
                (gridAt (Config.gridUnwritten y x) (frameSet s i).steady y x)

/-- R148 (a): the index of a colour that was passed to `PALADD` is less than `n`, the length of the
Palette, whenever the Palette has at most 256 entries. -/
def Obligations.IndicesStayInThePalette : Prop :=
  ∀ (ctl : Control) (p : PaletteRegs) (c : ColourNo),
    (palette ctl p).length ≤ 256 → (c = 0 → p.hasTrans = true) →
    (c ≠ 0 → palColour ctl c ∈ p.plist) →
      (indexMap ctl p c).toNat < (palette ctl p).length ∧
        (palette ctl p)[(indexMap ctl p c).toNat]? = some (palColour ctl c)

/-! ## The PNG chunk framer -/

/-- R162: `CRC32` alone: `CRC` runs over the bytes from all ones, by the table of R161, and the
result is its complement; nothing else changes. -/
def Obligations.Crc32RunsTheTable : Prop :=
  ∀ (b : Bytes) (s : State),
    let run := b.foldl
      (fun (c : BitVec 32) (x : Byte) => crcTab ((c ^^^ x.setWidth 32).setWidth 8) ^^^ (c >>> 8))
      0xFFFFFFFF#32
    exec (.crc32 b) s =
      .next { s with png := { s.png with crc := run }, fout := .crc (run ^^^ 0xFFFFFFFF#32) }

/-- R161, R162: one table-driven update of the register is 8 rounds of the bit-serial division of the
register with the byte added in. -/
def Obligations.CrcTableIsBitSerial : Prop :=
  ∀ (c : BitVec 32) (x : Byte),
    crcStep c x =
      crcRound (crcRound (crcRound (crcRound (crcRound (crcRound (crcRound (crcRound
        (c ^^^ x.setWidth 32))))))))

/-- R163: `CHUNK` of data of less than 2^31 bytes appends the length of the data, the type, the data and
the CRC of type and data to `OUT`, and writes `CRC`; nothing else changes; `12 + len(data)` bytes are
appended. -/
def Obligations.ChunkFramesTypeAndData : Prop :=
  ∀ (type : BitVec 32) (data : Bytes) (s : State), data.length < 2 ^ 31 →
    let added :=
      be32 (BitVec.ofNat 32 data.length) ++ be32 type ++ data ++ be32 (crc32 (be32 type ++ data))
    exec (.chunk type data) s =
        .next
          { s with
            out := s.out ++ added
            png := { s.png with crc := crcRegister (be32 type ++ data) } } ∧
      added.length = 12 + data.length

/-- R72, R182 (b): a reader finds every chunk again from its length, with its CRC right, whatever
follows it. That `CHUNK` completes on data of 2^31 bytes or more too, which R163 does not give it, and
then writes the length modulo 2^32, is the model's choice (log 25). -/
def Obligations.ChunkReadsBack : Prop :=
  (∀ (type : BitVec 32) (data rest : Bytes), data.length < 2 ^ 31 →
      readChunk (chunkBytes type data ++ rest) = some (be32 type, data, rest)) ∧
    ∀ (type : BitVec 32) (data : Bytes) (s : State), 2 ^ 31 ≤ data.length →
      exec (.chunk type data) s =
        .next
          { s with
            out := s.out ++ be32 (BitVec.ofNat 32 (data.length % 2 ^ 32)) ++ be32 type ++ data ++
              be32 (crc32 (be32 type ++ data))
            png := { s.png with crc := crcRegister (be32 type ++ data) } }

/-- R177, R82: `PACKSCAN` completes and changes nothing but the result, which is the sub-frame's rows
in order, top row first, each the filter byte 00 and then the row's indices from left to right, packed
(PackedRowUnpacks says what packing is); it has `H * (1 + ceil(W*d/8))` bytes at each of the depths
1, 2, 4, 8. -/
def Obligations.PackscanRows : Prop :=
  ∀ (k : BitVec 8) (d : BitVec 4) (s : State), (d = 1 ∨ d = 2 ∨ d = 4 ∨ d = 8) →
    ∃ b, exec (.packscan k d) s = .next { s with fout := .bytes b } ∧
      (b = (List.range (subFrame s k.toNat).h.toNat).flatMap fun y =>
        0x00 :: packRow d.toNat 0 0
          ((List.range (subFrame s k.toNat).w.toNat).map fun x => idxAt (subFrame s k.toNat) y x)) ∧
      b.length =
        (subFrame s k.toNat).h.toNat * (1 + ((subFrame s k.toNat).w.toNat * d.toNat + 7) / 8)

/-- R57, R177: unpacking a packed row, most significant bit first, gives the indices back, `d` bits
each, followed by fewer than 8 zero bits. -/
def Obligations.PackedRowUnpacks : Prop :=
  ∀ (d : Nat) (row : List (BitVec 8)), (d = 1 ∨ d = 2 ∨ d = 4 ∨ d = 8) →
    (∀ p ∈ row, p.toNat < 2 ^ d) →
    ∃ pad, pad < 8 ∧
      bitsMsbFirst (packRow d 0 0 row) = row.flatMap (indexBits d) ++ List.replicate pad false

/-- R176: the port is asked once, with the level and the whole byte string, and its answer is the
result; nothing else changes. With a level of 0..9 `Inflate` of the result is the byte string, and the
result fits a chunk with 4 bytes to spare: the external compressor's for every pixel stream of the
block, either's for a byte string whose stored blocks would fit. For all byte strings no compressor has
both obligations (b) and (c) (log 11). -/
def Obligations.DeflatePortAnswers : Prop :=
  ∀ (level : BitVec 4) (raw : Bytes) (s : State),
    (s.par.port = .stored →
        exec (.deflate level raw) s = .next { s with fout := .bytes (deflateStored raw) }) ∧
      (s.par.port = .external →
        exec (.deflate level raw) s = .next { s with fout := .bytes (external.deflate level raw) }) ∧
      ∃ z, exec (.deflate level raw) s = .next { s with fout := .bytes z } ∧
        (level.toNat ≤ 9 → inflate s.par.port z = raw) ∧
        (level.toNat ≤ 9 → (s.par.port = .external ∧ Config.Scanlines raw) → z.length + 4 < 2 ^ 31) ∧
        (level.toNat ≤ 9 → Config.storedLength raw.length + 4 < 2 ^ 31 → z.length + 4 < 2 ^ 31)

/-- R164, R165, R166: `SIG`, `IHDR`, `PLTE`: the bytes they append, the registers they write, the
operation that follows (R180), and that nothing else changes. -/
def Obligations.PngHeaderOperations : Prop :=
  ∀ s : State,
    let pal := if s.pl.hasTrans then palColour s.ctl 0 :: s.pl.plist else s.pl.plist
    let depth : BitVec 4 :=
      if pal.length ≤ 2 then 1 else if pal.length ≤ 4 then 2 else if pal.length ≤ 16 then 4 else 8
    let ihdr := be32 ((subFrame s 0).w.setWidth 32) ++ be32 ((subFrame s 0).h.setWidth 32) ++
      [depth.setWidth 8, 3, 0, 0, 0]
    let plte := pal.flatMap rgb
    exec .sig s =
        .next
          { s with
            out := s.out ++ [0x89, 0x50, 0x4E, 0x47, 0x0D, 0x0A, 0x1A, 0x0A]
            pc := { s.pc with phase := 0x11 } } ∧
      exec .ihdr s =
        .next
          { s with
            out := s.out ++ chunkBytes 0x49484452 ihdr
            png :=
              { s.png with depth := depth, crc := crcRegister (be32 0x49484452 ++ ihdr) }
            pc := { s.pc with phase := 0x12 } } ∧
      exec .plte s =
        .next
          { s with
            out := s.out ++ chunkBytes 0x504C5445 plte
            png := { s.png with crc := crcRegister (be32 0x504C5445 ++ plte) }
            pc :=
              { s.pc with
                phase :=
                  if s.ctl.cfgPng.alpha.toNat < 255 ∧ s.pl.hasTrans = true then 0x13
                  else if 2 ≤ s.nsub.toNat then 0x14
                  else 0x16 } }

/-- R167, R168, R169: `tRNS`, `acTL`, `fcTL`: the bytes they append, the registers they write, the
operation that follows (R180), and that nothing else changes. What a `SEQ` at the top of its register
gives is the model's choice (log 25). -/
def Obligations.PngControlOperations : Prop :=
  ∀ s : State,
    let f := subFrame s s.pc.k.toNat
    let actl := be32 (s.nsub.setWidth 32) ++ be32 0
    let fctl := be32 s.png.seq ++ be32 (f.w.setWidth 32) ++ be32 (f.h.setWidth 32) ++
      be32 (f.x.setWidth 32) ++ be32 (f.y.setWidth 32) ++ be16 f.delay ++ [0x00, 0x64, 0, 0]
    exec .trns s =
        .next
          { s with
            out := s.out ++ chunkBytes 0x74524E53 [s.ctl.cfgPng.alpha]
            png := { s.png with crc := crcRegister (be32 0x74524E53 ++ [s.ctl.cfgPng.alpha]) }
            pc := { s.pc with phase := if 2 ≤ s.nsub.toNat then 0x14 else 0x16 } } ∧
      exec .actl s =
        .next
          { s with
            out := s.out ++ chunkBytes 0x6163544C actl
            png := { s.png with crc := crcRegister (be32 0x6163544C ++ actl) }
            pc := { s.pc with phase := 0x15, k := 0 } } ∧
      exec .fctl s =
        .next
          { s with
            out := s.out ++ chunkBytes 0x6663544C fctl
            png :=
              { s.png with
                crc := crcRegister (be32 0x6663544C ++ fctl), seq := s.png.seq + 1 }
            pc := { s.pc with phase := if s.pc.k = 0 then 0x16 else 0x17 } }

/-- R172, R173, R175: `IDAT`, `fdAT`, `IEND`: the bytes they append (IEND's are the constant of R81),
the registers they write, the operation that follows (R180), and that nothing else changes. And R182
(d): at a `COMP_LEVEL` of 0..9, `Inflate` of the compressed data is the `PACKSCAN` of the sub-frame, and
a reader finds that data in the IDAT chunk and, after the four bytes of `SEQ`, in the fdAT chunk. The
reader's part holds of the external compressor at the depths 1, 2, 4, the ones that a Palette of at most
16 entries needs, whatever the size of the sub-frame, and of either one where stored blocks would fit
(log 11, log 12). That K stays at the last sub-frame when the loop ends is the model's choice (log 16), and so is what a
`SEQ` at the top of its register and data of 2^31 bytes or more give (log 25). -/
def Obligations.PngDataOperations : Prop :=
  ∀ s : State,
    let z := fun k =>
      deflate s.par.port s.ctl.cfgPng.compLevel (packScan (subFrame s k) s.png.depth.toNat)
    let fdat := be32 s.png.seq ++ z s.pc.k.toNat
    exec .idat s =
        .next
          { s with
            out := s.out ++ chunkBytes 0x49444154 (z 0)
            png := { s.png with crc := crcRegister (be32 0x49444154 ++ z 0) }
            pc :=
              if 2 ≤ s.nsub.toNat then { s.pc with phase := 0x15, k := 1 }
              else { s.pc with phase := 0x18 } } ∧
      exec .fdat s =
        .next
          { s with
            out := s.out ++ chunkBytes 0x66644154 fdat
            png :=
              { s.png with
                crc := crcRegister (be32 0x66644154 ++ fdat), seq := s.png.seq + 1 }
            pc :=
              if s.pc.k.toNat + 1 < s.nsub.toNat then
                { s.pc with phase := 0x15, k := s.pc.k + 1 }
              else { s.pc with phase := 0x18 } } ∧
      exec .iend s =
        .next
          { s with
            out := s.out ++
              [0x00, 0x00, 0x00, 0x00, 0x49, 0x45, 0x4E, 0x44, 0xAE, 0x42, 0x60, 0x82]
            png := { s.png with crc := 0x51BD9F7D }
            pc := { s.pc with phase := 0x3F } } ∧
      (s.ctl.cfgPng.compLevel.toNat ≤ 9 → ∀ k : Nat,
        let raw := packScan (subFrame s k) s.png.depth.toNat
        inflate s.par.port (z k) = raw ∧
          ((s.par.port = .external ∧ (s.png.depth = 1 ∨ s.png.depth = 2 ∨ s.png.depth = 4)) ∨
              Config.storedLength raw.length + 4 < 2 ^ 31 → ∀ rest : Bytes,
            readChunk (chunkBytes 0x49444154 (z k) ++ rest) = some (be32 0x49444154, z k, rest) ∧
              readChunk (chunkBytes 0x66644154 (be32 s.png.seq ++ z k) ++ rest) =
                some (be32 0x66644154, be32 s.png.seq ++ z k, rest)))

/-- R171: the APNG sequence number at every phase is the one that the numbering of the rule gives, and
every step keeps that. -/
def Obligations.SequenceNumbersKept : Prop :=
  ∀ s t : State, SequenceInv s → step s = .next t → SequenceInv t

/-- R180: from SIG with the host's queue empty and `SEQ = 0`, the sequencer appends exactly the PNG
file of the rule, chunk by chunk in its order, and reaches FINISH with `SEQ` one past the last number
written; only `OUT`, the PNG registers and the program counter change. -/
def Obligations.PngSequenceWritesTheFile : Prop :=
  ∀ s : State,
    s.host.queue = [] → s.pc.phase = phaseSig → s.png.seq = 0 →
    ∃ n t, steps n s = .next t ∧ t.pc.phase = phaseFinish ∧ t.out = s.out ++ pngFile s ∧
      t.png.seq.toNat = (if 2 ≤ s.nsub.toNat then 2 * s.nsub.toNat - 1 else 0) ∧
      t = { s with out := t.out, png := t.png, pc := t.pc }

/-- R181: the size of a PNG file. -/
def Obligations.PngFileSize : Prop :=
  ∀ s : State,
    let n := paletteLen s.ctl s.pl
    let z := fun k =>
      (deflate s.par.port s.ctl.cfgPng.compLevel
        (packScan (subFrame s k) (depthFor n).toNat)).length
    (pngFile s).length =
      8 + (12 + 13) + (12 + 3 * n) + (if emitsTrns s then 13 else 0) +
        (if animated s then 20 + 38 else 0) + (12 + z 0) +
        ((List.range (s.nsub.toNat - 1)).map fun j => 38 + 16 + z (j + 1)).sum + 12

/-! ## The GIF encoder -/

/-- R200, R201, R202, R204: `GHDR`, `LSD`, `GCT`, `APPEXT`: the bytes they append, the operation that
follows (R220), and that nothing else changes. `NG` is any power of two with `4 <= NG`, `n <= NG` and
`NG < 2n` or `NG = 4`: the smallest that R202 asks for. -/
def Obligations.GifHeaderOperations : Prop :=
  ∀ (s : State) (e : Nat),
    let pal := if s.pl.hasTrans then palColour s.ctl 0 :: s.pl.plist else s.pl.plist
    let first :=
      if 0 < s.nsub.toNat then
        { s.pc with
          phase := if 2 ≤ s.nsub.toNat ∨ s.flg.tflag = true then 0x24 else 0x25, k := 0 }
      else { s.pc with phase := 0x27 }
    1 ≤ e → pal.length ≤ 2 ^ (e + 1) → (e = 1 ∨ 2 ^ e < pal.length) →
    exec .ghdr s =
        .next
          { s with
            out := s.out ++ [0x47, 0x49, 0x46, 0x38, 0x39, 0x61]
            pc := { s.pc with phase := 0x21 } } ∧
      exec .lsd s =
        .next
          { s with
            out := s.out ++ le16 (subFrame s 0).w ++ le16 (subFrame s 0).h ++
              [BitVec.ofNat 8 (0x80 ||| (e <<< 4) ||| e), 0, 0]
            pc := { s.pc with phase := 0x22 } } ∧
      exec .gct s =
        .next
          { s with
            out := s.out ++ pal.flatMap rgb ++
              List.replicate (3 * (2 ^ (e + 1) - pal.length)) 0x00
            pc := if 2 ≤ s.nsub.toNat then { s.pc with phase := 0x23 } else first } ∧
      exec .appext s =
        .next
          { s with
            out := s.out ++
              [0x21, 0xFF, 0x0B, 0x4E, 0x45, 0x54, 0x53, 0x43, 0x41, 0x50, 0x45, 0x32, 0x2E, 0x30,
                0x03, 0x01, 0x00, 0x00, 0x00]
            pc := first }

/-- R206, R207, R216: `GCE`, `IMGDESC`, `TRAILER`: the bytes they append, the operation that follows
(R220), and that nothing else changes. R256 refuses a `WRITE` with an offset above 65535 (U7); that the
refusal falls at the `IMGDESC` of the sub-frame concerned is the model's choice (log 22). -/
def Obligations.GifBlockOperations : Prop :=
  ∀ s : State,
    let f := subFrame s s.pc.k.toNat
    exec .gce s =
        .next
          { s with
            out := s.out ++
              [0x21, 0xF9, 0x04,
                BitVec.ofNat 8 (4 * s.par.gifDisposal.toNat + s.flg.tflag.toNat)] ++
              le16 f.delay ++ [0x00, 0x00]
            pc := { s.pc with phase := 0x25 } } ∧
      (f.x.toNat ≤ 65535 → f.y.toNat ≤ 65535 →
        exec .imgdesc s =
          .next
            { s with
              out := s.out ++
                ([0x2C] ++ le16 (BitVec.ofNat 16 f.x.toNat) ++
                  le16 (BitVec.ofNat 16 f.y.toNat) ++ le16 f.w ++ le16 f.h ++ [0x00])
              pc := { s.pc with phase := 0x26 } }) ∧
      ((65535 < f.x.toNat ∨ 65535 < f.y.toNat) → exec .imgdesc s = .refused .gifOffset) ∧
      exec .trailer s =
        .next { s with out := s.out ++ [0x3B], pc := { s.pc with phase := 0x3F } }

/-- R87, R202, R209: `NG` is at least 4 and `n`, is a power of two, and no smaller power of two will
do; `2^m = NG`; and `SC + 1` is its logarithm. -/
def Obligations.TableSizesAgree : Prop :=
  ∀ n : Nat,
    n ≤ tableSize n ∧ 4 ≤ tableSize n ∧ (tableSize n = 4 ∨ tableSize n < 2 * n) ∧
      2 ^ minCode n = tableSize n ∧ 2 ^ (sizeCode n + 1) = tableSize n

/-- R263, R211 to R213: `LZW` of a non-empty list of pixels below `2^m`, m in 2..8, completes without
F_LZW; it writes the LZW registers and nothing else but the result; every code it emits is below
`2^WIDTH` and `m + 1 <= WIDTH <= 12`; the first is `CLEAR` and the last `STOP`. -/
def Obligations.LzwEmitsCodesThatFit : Prop :=
  ∀ (pixels : List (BitVec 8)) (m : BitVec 4) (s : State),
    2 ≤ m.toNat → m.toNat ≤ 8 → pixels ≠ [] → (∀ p ∈ pixels, p.toNat < 2 ^ m.toNat) →
    ∃ regs mid last,
      let first : Code := { code := BitVec.ofNat 12 (2 ^ m.toNat), width := m + 1 }
      let codes := first :: (mid ++ [last])
      exec (.lzw pixels m) s =
          .next
            { s with gif := { s.gif with mincode := m, lzw := regs }, fout := .codes codes } ∧
        last.code.toNat = 2 ^ m.toNat + 1 ∧
        (∀ c ∈ codes, c.code.toNat < 2 ^ c.width.toNat ∧ m.toNat + 1 ≤ c.width.toNat ∧
          c.width.toNat ≤ 12) ∧
        2 ^ m.toNat + 2 ≤ regs.next.toNat ∧ regs.next.toNat ≤ 4096

/-- R263, R268: a minimum code size that needs codes of 13 bits raises F_LZW by fault entry: `ERR`
(9, 0), `STATUS.FAULT` set, `OUT` emptied, ERROR, IDLE. No palette of the block gives one; that `LZW`
alone answers so for such an operand (log 25), and that the working state stays as it was after the
fault (log 26), is the model's choice. -/
def Obligations.LzwFaultEntry : Prop :=
  ∀ (pixels : List (BitVec 8)) (m : BitVec 4) (s : State), 12 ≤ m.toNat →
    exec (.lzw pixels m) s =
      .next
        { s with
          ctl :=
            { s.ctl with
              err := { code := 9, frame := 0 }, status := { state := .error, fault := true } }
          out := []
          pc := { s.pc with phase := 0x00 } }

/-- R213, R222 (c): a standard GIF decoder, which computes each code's width by itself, stays in step
with the compressor and gives the pixels back, for every non-empty list of pixels below `2^m` and m in
2..8, however often the table fills. -/
def Obligations.LzwDecodesBack : Prop :=
  ∀ (m : Nat) (pixels : List (BitVec 8)) (regs : LzwRegs) (codes : List Code),
    2 ≤ m → m ≤ 8 → pixels ≠ [] → (∀ p ∈ pixels, p.toNat < 2 ^ m) →
    lzw m pixels = .ok (regs, codes) → lzwDecode m (m + 1) [] none codes = some pixels

/-- R214, R57: `BITPACK` completes and changes only its registers and the result; read least
significant bit first, its bytes are the codes at their widths in order, followed by fewer than 8
zero bits. -/
def Obligations.BitpackUnpacks : Prop :=
  ∀ (codes : List Code) (s : State),
    (∀ c ∈ codes, c.code.toNat < 2 ^ c.width.toNat) →
    ∃ b regs pad,
      exec (.bitpack codes) s =
          .next { s with gif := { s.gif with bits := regs }, fout := .bytes b } ∧
        pad < 8 ∧ bitsLsbFirst b = codes.flatMap codeBits ++ List.replicate pad false

/-- R215, R91, R96: `SUBBLOCK` completes and changes only its registers and the result; the result is
what the rule's loop writes, and has `len + ceil(len/255) + 1` bytes. A reader that follows the length
bytes finds the bytes again and the end of the image data, whatever follows it. That `BLK` is empty and
`BLKLEN` is 0 afterwards is the model's choice (log 16). -/
def Obligations.SubblockFollowsItsRule : Prop :=
  ∀ (bytes : Bytes) (s : State),
    ∃ out, exec (.subblock bytes) s =
        .next
          { s with
            gif := { s.gif with blk := { blk := [], blklen := 0 } }, fout := .bytes out } ∧
      out = subBlockRule bytes.length bytes ∧
      out.length = bytes.length + (bytes.length + 254) / 255 + 1 ∧
      ∀ rest : Bytes, readSubBlocks (bytes.length + 1) (out ++ rest) = some (bytes, rest)

/-- R208: `IMGDATA` of sub-frame `K` completes without F_LZW whenever the Palette has at most 256
entries: it appends the minimum code size and the sub-blocks of the packed LZW codes of the pixels
row by row, writes the GIF registers, and goes on as R220 says. What the registers hold afterwards,
K after the last sub-frame among them, is log 16. -/
def Obligations.ImgdataAppendsImageData : Prop :=
  ∀ s : State,
    let n := paletteLen s.ctl s.pl
    let f := subFrame s s.pc.k.toNat
    let pixels := (List.range f.h.toNat).flatMap fun y => (List.range f.w.toNat).map (idxAt f y)
    n ≤ 256 →
    ∃ regs codes, lzw (minCode n) pixels = .ok (regs, codes) ∧ minCode n ≤ 8 ∧
      exec .imgdata s =
        .next
          { s with
            out := s.out ++ BitVec.ofNat 8 (minCode n) :: (subBlock (bitPack codes).1).1
            gif :=
              { mincode := BitVec.ofNat 4 (minCode n)
                lzw := regs
                bits := (bitPack codes).2
                blk := { blk := [], blklen := 0 } }
            pc :=
              if s.pc.k.toNat + 1 < s.nsub.toNat then
                { s.pc with
                  phase := if 2 ≤ s.nsub.toNat ∨ s.flg.tflag = true then 0x24 else 0x25
                  k := s.pc.k + 1 }
              else { s.pc with phase := 0x27 } }

/-- R220: from GHDR with the host's queue empty, a Palette of at most 256 entries and every offset in
16 bits, the sequencer appends exactly the GIF file of the rule and reaches FINISH; only `OUT`, the
GIF registers and the program counter change. -/
def Obligations.GifSequenceWritesTheFile : Prop :=
  ∀ s : State,
    s.host.queue = [] → s.pc.phase = phaseGhdr → paletteLen s.ctl s.pl ≤ 256 →
    (∀ k, k < s.nsub.toNat → (subFrame s k).x.toNat ≤ 65535 ∧ (subFrame s k).y.toNat ≤ 65535) →
    ∃ n t, steps n s = .next t ∧ t.pc.phase = phaseFinish ∧ t.out = s.out ++ gifFile s ∧
      t = { s with out := t.out, gif := t.gif, pc := t.pc }

/-! ## The whole block -/

/-- R52, R34: no operation writes cell memory or a control register other than `STATUS` and `ERR`;
none changes the parameters or the host's side of the port. -/
def Obligations.OperationsKeepInputs : Prop :=
  ∀ (i : Instr) (s t : State), exec i s = .next t →
    (∀ a, memRead t.mem a = memRead s.mem a) ∧ t.mem = s.mem ∧
      t.ctl = { s.ctl with status := t.ctl.status, err := t.ctl.err } ∧ t.par = s.par ∧
      t.host = s.host

/-- R56: an operation only appends to `OUT`, or empties it. -/
def Obligations.OutOnlyGrowsOrEmpties : Prop :=
  ∀ (i : Instr) (s t : State), exec i s = .next t → t.out = [] ∨ s.out <+: t.out

/-- R54: every step keeps cell memory inside `CELLMEM_SIZE` and in its canonical form, which is the
model's (log 8). -/
def Obligations.MemoryFormKept : Prop :=
  ∀ s t : State, MemoryInv s → step s = .next t → MemoryInv t

/-- R241: every step keeps every option field legal. -/
def Obligations.OptionFieldsStayLegal : Prop :=
  ∀ s t : State, ConfigInv s → step s = .next t → ConfigInv t

/-- R250, R264, R266: every step keeps the sequencer in a state of the rules: an assigned `PHASE`,
IDLE exactly when not BUSY, `OUT` empty after an error and before the first `Emit`, `ERR` 0 unless the
last `WRITE` failed. -/
def Obligations.SequencerStaysLegal : Prop :=
  ∀ s t : State, SequencerInv s → step s = .next t → SequencerInv t

/-- R38, R263: every step keeps the palette invariant (`PLIST` without repeats, at most 15 entries),
and no step raises F_PALETTE or F_LZW: `STATUS.FAULT` is never set. -/
def Obligations.FaultsAreUnreachable : Prop :=
  ∀ s t : State, SequencerInv s → PaletteInv s → step s = .next t →
    PaletteInv t ∧ (t.ctl.status.fault = true → s.ctl.status.fault = true)

/-- The reset state meets every invariant. R45, R290 and R291 give `STATUS`, `ERR`, the option registers,
`OUT` and `PHASE` there; the parameters (log 5) and what `FD` (log 7), cell memory (log 8) and the
working state, `PLIST` and `SEQ` among it (log 9), hold are the model's choices, and the clauses about
memory, descriptors, palette registers and sequence number rest on them. -/
def Obligations.ResetMeetsTheInvariants : Prop :=
  MemoryInv State.reset ∧ ConfigInv State.reset ∧ SequencerInv State.reset ∧
    PaletteInv State.reset ∧ SequenceInv State.reset

/-- R250, R299: a `WRITE` terminates: from any legal BUSY state with the host's queue empty, at most
1100 operations later `STATUS.STATE` is no longer BUSY, or the `WRITE` was refused. -/
def Obligations.WriteTerminates : Prop :=
  ∀ s : State, SequencerInv s → s.host.queue = [] → s.ctl.status.state = .busy →
    ∃ n, n ≤ 1100 ∧
      ((∃ t, steps n s = .next t ∧ t.ctl.status.state ≠ .busy) ∨ ∃ r, steps n s = .refused r)

/-- R252: what the host sees of a `WRITE` after any number of steps depends only on the parameters,
the control registers and cell memory: two blocks that agree on these, whatever their `OUT`, `ERR` and
working state hold from before, show the same `STATUS`, `ERR` and `OUT`. -/
def Obligations.WriteForgetsThePast : Prop :=
  ∀ (fmt : BitVec 2) (s t s' t' : State) (n : Nat),
    s.host.queue = [] → t.host.queue = [] → s.par = t.par → s.mem = t.mem →
    t.ctl = { s.ctl with
      err := t.ctl.err, status := { t.ctl.status with fault := s.ctl.status.fault } } →
    exec (.write fmt) s = .next s' → exec (.write fmt) t = .next t' →
      hostView (steps n s') = hostView (steps n t')

/-! ## The host interface and reset -/

/-- R22 to R32: what a host reads from every register while the block is not BUSY. One that it has
written (R26 to R32) reads back the value cut to the register's width, an invalid option replaced by its
default. In every state a register reads the part of the state that its number and its bits name: each
option with its fields in their places (R26 to R28), `NFRAMES` (R29), `PAL[c]` (R32) and the twelve
fields of each descriptor (R30); `CMD` reads 0 (R23), `STATUS` and `ERR` read their fields (R24, R25), a reserved number and the
`FD` fields 12 to 15 read 0 and ignore a write (R22, R100). That the bits of a written value above the
register's width are dropped, and that a write to `STATUS` or `ERR` changes nothing, is the model's
choice (log 18). -/
def Obligations.RegistersRead : Prop :=
  (∀ (s : State) (reg : Nat) (v : BitVec 32) (q : List HostReq),
      s.host.queue = .write reg v :: .read reg :: q → s.ctl.status.state ≠ .busy →
      s.ctl.fd.length = s.par.nfMax.toNat →
      let reads := fun (x : Nat) =>
        ∃ t, steps 2 s = .next t ∧ t.host.data = BitVec.ofNat 32 x ∧ t.host.queue = q
      (reg = 0x03 → reads (if v.toNat % 4 = 2 then 2 else 1)) ∧
        (reg = 0x04 →
          reads ((if 9 < v.toNat % 16 then 9 else v.toNat % 16) + 16 * (v.toNat / 16 % 2) +
            256 * (v.toNat / 256 % 256))) ∧
        (reg = 0x05 → reads (v.toNat % 4)) ∧ (reg = 0x06 → reads (v.toNat % 256)) ∧
        (∀ c, c < 16 → reg = 0x10 + c → reads (v.toNat % 2 ^ 24)) ∧
        (∀ i j, i < s.par.nfMax.toNat → j < 12 → reg = 0x100 + 16 * i + j →
          reads
            (if j = 0 then v.toNat
              else if j ≤ 3 then v.toNat % 2 ^ 8
              else if j = 4 then (if v.toNat % 4 = 3 then 0 else v.toNat % 4)
              else v.toNat % 2 ^ 16))) ∧
    (∀ (s : State) (reg : Nat) (q : List HostReq),
      s.host.queue = .read reg :: q → s.ctl.status.state ≠ .busy →
      let answers := fun (x : Nat) =>
        step s = .next { s with host := { s.host with queue := q, data := BitVec.ofNat 32 x } }
      (reg = 0x00 → answers 0) ∧
        (reg = 0x01 →
          answers
            ((match s.ctl.status.state with
              | .idle => 0
              | .busy => 1
              | .done => 2
              | .error => 3) + 4 * s.ctl.status.fault.toNat)) ∧
        (reg = 0x02 → answers (s.ctl.err.code.toNat + 256 * s.ctl.err.frame.toNat)) ∧
        (reg = 0x03 → answers s.ctl.defaultFmt.toNat) ∧
        (reg = 0x04 →
          answers
            (s.ctl.cfgPng.compLevel.toNat + 16 * s.ctl.cfgPng.pngAnim.toNat +
              256 * s.ctl.cfgPng.alpha.toNat)) ∧
        (reg = 0x05 → answers (s.ctl.cfgGif.gifAnim.toNat + 2 * s.ctl.cfgGif.gifTrans.toNat)) ∧
        (reg = 0x06 → answers s.ctl.nframes.toNat) ∧
        (∀ (c : Nat) (hc : c < 16), reg = 0x10 + c → answers s.ctl.pal[c].toNat) ∧
        (∀ (i j : Nat) (f : FrameDesc),
          s.ctl.fd[i]? = some f → i < s.par.nfMax.toNat → j < 12 → reg = 0x100 + 16 * i + j →
          answers
            ([f.cellBase.toNat, f.rows.toNat, f.cols.toNat, f.scale.toNat, f.maskMode.toNat,
              f.cropX.toNat, f.cropY.toNat, f.cropW.toNat, f.cropH.toNat, f.delay.toNat,
              f.offX.toNat, f.offY.toNat].getD j 0)) ∧
        (reservedNumber s.par.nfMax.toNat reg → answers 0)) ∧
    ∀ (s : State) (reg : Nat) (v : BitVec 32) (q : List HostReq),
      s.host.queue = .write reg v :: q → s.ctl.status.state ≠ .busy →
      (reg = 0x01 ∨ reg = 0x02 ∨ reservedNumber s.par.nfMax.toNat reg) →
        step s = .next (withQueue q s)

/-- R22: a host write to one register other than `CMD`, made while the block is not BUSY, completes and
leaves what every other register number reads unchanged; it changes nothing but control registers,
`STATUS` and `ERR` not among them. That a write to `STATUS` or `ERR` completes without effect is the
model's choice (log 18), and so is the host's queue (log 2). -/
def Obligations.RegistersAreIndependent : Prop :=
  ∀ (s : State) (reg : Nat) (v : BitVec 32) (q : List HostReq),
    s.host.queue = .write reg v :: q → s.ctl.status.state ≠ .busy → reg ≠ 0x00 →
    ∃ t, step s = .next t ∧
      t = { s with ctl := t.ctl, host := { s.host with queue := q } } ∧
      t.ctl.status = s.ctl.status ∧ t.ctl.err = s.ctl.err ∧
      ∀ reg', reg' ≠ reg → hostReads t reg' = hostReads s reg'

/-- R296: while BUSY a host write to a control register or to cell memory and a read of `OUT` are
refused; a read of `STATUS` is allowed, returns BUSY and changes nothing else. R41, R62 (c): while the
block is not BUSY a read of `OUT` hands the whole of it to the host and changes nothing else, so that it
can be read any number of times. The host's queue and latches are the model's (log 2). -/
def Obligations.HostAccessAndBusy : Prop :=
  (∀ (s : State) (q : List HostReq), s.ctl.status.state = .busy →
    (∀ reg v, s.host.queue = .write reg v :: q → step s = .refused .hostWhileBusy) ∧
      (∀ a b, s.host.queue = .memWrite a b :: q → step s = .refused .hostWhileBusy) ∧
      (s.host.queue = .readOut :: q → step s = .refused .hostWhileBusy) ∧
      (s.host.queue = .read 0x01 :: q →
        step s =
          .next
            { s with
              host :=
                { s.host with
                  queue := q, data := if s.ctl.status.fault then 5 else 1 } })) ∧
    ∀ (s : State) (q : List HostReq),
      s.host.queue = .readOut :: q → s.ctl.status.state ≠ .busy →
        step s = .next { s with host := { s.host with queue := q, outCopy := s.out } }

/-- R52, R54: a host memory write inside `CELLMEM_SIZE`, while not BUSY, stores its bytes at rising
addresses and leaves every other byte and everything else unchanged. -/
def Obligations.HostMemoryWriteStores : Prop :=
  ∀ (s : State) (a : Nat) (b : Bytes) (q : List HostReq),
    s.host.queue = .memWrite a b :: q → s.ctl.status.state ≠ .busy →
    a + b.length ≤ s.par.cellMemSize →
    ∃ t, step s = .next t ∧
      t = { s with mem := t.mem, host := { s.host with queue := q } } ∧
      (∀ i, i < b.length → memRead t.mem (a + i) = b[i]?) ∧
      ∀ x, (x < a ∨ a + b.length ≤ x) → memRead t.mem x = memRead s.mem x

/-- R290, R292: reset at any moment, a `WRITE` in progress included, leaves `STATUS`, `ERR`, the option
registers, `NFRAMES`, `PAL`, `OUT` and `PHASE` at the values of the rule. That the parameters and the
host's later accesses stay is the model's choice (log 10). -/
def Obligations.ResetAtAnyMoment : Prop :=
  ∀ (s : State) (q : List HostReq), s.host.queue = .reset :: q →
    ∃ t, step s = .next t ∧ t.ctl.status = { state := .idle, fault := false } ∧
      t.ctl.err = { code := 0, frame := 0 } ∧ t.ctl.defaultFmt = 1 ∧
      t.ctl.cfgPng = { compLevel := 9, pngAnim := true, alpha := 255 } ∧
      t.ctl.cfgGif = { gifAnim := true, gifTrans := false } ∧ t.ctl.nframes = 0 ∧
      (∀ c, palColour t.ctl c = s.par.palDefault.get ⟨c.toNat, c.isLt⟩) ∧ t.out = [] ∧
      t.pc.phase = 0x00 ∧ t.par = s.par ∧ t.host.queue = q
end

