-- ==== Sys2Proof/Laws/Memory.lean ====
section
/-! SUPPORT. What the operations over cell memory do: read after write, the canonical form, and what
a read that succeeds says of the memory. -/

namespace Sys2Proof.Machine

/-- A byte reads as what was written to it last. -/
theorem memRead_memWrite_same (m : Memory) (a : Nat) (v : Byte) :
    memRead (memWrite m a v) a = some v := by
  induction m with
  | nil => simp [memWrite, memRead]
  | cons c rest ih =>
    unfold memWrite
    split_ifs with h h'
    · simp [memRead]
    · simp [memRead]
    · simp [memRead, Ne.symm h', ih]

/-- A write leaves every other address alone. -/
theorem memRead_memWrite_other (m : Memory) (a x : Nat) (v : Byte) (hx : x ≠ a) :
    memRead (memWrite m a v) x = memRead m x := by
  induction m with
  | nil => simp [memWrite, memRead, Ne.symm hx]
  | cons c rest ih =>
    unfold memWrite
    split_ifs with h h'
    · simp [memRead, Ne.symm hx]
    · subst h'
      simp [memRead, Ne.symm hx]
    · simp [memRead, ih]

/-- The addresses a write lists are the written one and those listed before. -/
theorem mem_memWrite (m : Memory) (a : Nat) (v : Byte) (c : Host.Cell) (h : c ∈ memWrite m a v) :
    c.1 = a ∨ c ∈ m := by
  induction m with
  | nil => simp_all [memWrite]
  | cons d rest ih =>
    unfold memWrite at h
    split_ifs at h with h1 h2
    · rcases List.mem_cons.1 h with rfl | h
      · exact .inl rfl
      · exact .inr h
    · rcases List.mem_cons.1 h with rfl | h
      · exact .inl rfl
      · exact .inr (List.mem_cons_of_mem _ h)
    · rcases List.mem_cons.1 h with rfl | h
      · exact .inr List.mem_cons_self
      · exact (ih h).imp_right (List.mem_cons_of_mem _)

/-- The canonical form, one entry at a time. -/
theorem memWf_cons (c : Host.Cell) (m : Memory) :
    memWf (c :: m) = true ↔ (∀ d ∈ m.head?, c.1 < d.1) ∧ memWf m = true := by
  cases m <;> simp [memWf]

/-- The first entry after a write is the old first entry or the written one. -/
theorem head_memWrite (m : Memory) (a : Nat) (v : Byte) (d : Host.Cell)
    (h : d ∈ (memWrite m a v).head?) : d.1 = a ∨ d ∈ m.head? := by
  cases m with
  | nil =>
    simp only [memWrite, List.head?_cons, Option.mem_def, Option.some.injEq] at h
    exact .inl (by rw [← h])
  | cons c rest =>
    unfold memWrite at h
    split_ifs at h with h1 h2
    · simp only [List.head?_cons, Option.mem_def, Option.some.injEq] at h
      exact .inl (by rw [← h])
    · simp only [List.head?_cons, Option.mem_def, Option.some.injEq] at h
      exact .inl (by rw [← h])
    · exact .inr h

/-- A write keeps the canonical form. -/
theorem memWf_memWrite (m : Memory) (a : Nat) (v : Byte) (h : memWf m = true) :
    memWf (memWrite m a v) = true := by
  induction m with
  | nil => rfl
  | cons c rest ih =>
    have hc := (memWf_cons c rest).1 h
    unfold memWrite
    split_ifs with h1 h2
    · exact (memWf_cons _ _).2 ⟨by simpa using h1, h⟩
    · exact (memWf_cons _ _).2 ⟨by simpa [h2] using hc.1, hc.2⟩
    · refine (memWf_cons _ _).2 ⟨fun d hd => ?_, ih hc.2⟩
      rcases head_memWrite rest a v d hd with hd | hd
      · omega
      · exact hc.1 d hd

/-- A write of several bytes keeps the canonical form. -/
theorem memWf_memWriteBytes (b : Bytes) (m : Memory) (a : Nat) (h : memWf m = true) :
    memWf (memWriteBytes m a b) = true := by
  induction b generalizing m a with
  | nil => exact h
  | cons v vs ih => exact ih _ _ (memWf_memWrite m a v h)

/-- The memory of the reset state is in the canonical form. -/
theorem memWf_reset (p : Config.Params) : memWf (State.resetWith p).mem = true := rfl

/-- What a read that succeeds says: as many bytes as asked, each inside the memory and written. -/
theorem memReadBytes_ok (size : Nat) (m : Memory) (n a : Nat) (bs : Bytes)
    (h : memReadBytes size m a n = .ok bs) :
    bs.length = n ∧ ∀ i, i < n → a + i < size ∧ memRead m (a + i) = bs[i]? := by
  induction n generalizing a bs with
  | zero => cases h; exact ⟨rfl, fun i hi => absurd hi (Nat.not_lt_zero i)⟩
  | succ n ih =>
    unfold memReadBytes at h
    split_ifs at h with hs
    split at h
    · cases h
    · rename_i v hv
      split at h
      · cases h
      · rename_i vs hvs
        cases h
        have := ih (a + 1) vs hvs
        refine ⟨by simp [this.1], fun i hi => ?_⟩
        cases i with
        | zero => exact ⟨hs, by simpa using hv⟩
        | succ i =>
          have hi' := this.2 i (by omega)
          exact ⟨by omega, by rw [← Nat.add_assoc, Nat.add_right_comm]; simpa using hi'.2⟩

/-- Where every byte is inside the memory and written, a read succeeds. -/
theorem memReadBytes_exists (size : Nat) (m : Memory) (n a : Nat)
    (h : ∀ i, i < n → a + i < size ∧ (memRead m (a + i)).isSome) :
    ∃ bs, memReadBytes size m a n = .ok bs := by
  induction n generalizing a with
  | zero => exact ⟨[], rfl⟩
  | succ n ih =>
    have h0 := h 0 (by omega)
    obtain ⟨v, hv⟩ := Option.isSome_iff_exists.1 h0.2
    obtain ⟨vs, hvs⟩ := ih (a + 1) fun i hi => by
      have := h (i + 1) (by omega)
      rwa [← Nat.add_assoc, Nat.add_right_comm] at this
    exact ⟨v :: vs, by rw [Nat.add_zero] at h0 hv; simp [memReadBytes, h0.1, hv, hvs]⟩

end Sys2Proof.Machine
end

