-- ==== Sys2Proof/Laws/State.lean ====
section
/-! SUPPORT. One lemma per field of the state per named update, so that no proof unfolds a record
update. -/

namespace Sys2Proof.Machine

/-! ## `emit` -/

@[simp] theorem emit_par (b : Bytes) (s : State) : (emit b s).par = s.par := rfl
@[simp] theorem emit_ctl (b : Bytes) (s : State) : (emit b s).ctl = s.ctl := rfl
@[simp] theorem emit_mem (b : Bytes) (s : State) : (emit b s).mem = s.mem := rfl
@[simp] theorem emit_out (b : Bytes) (s : State) : (emit b s).out = s.out ++ b := rfl
@[simp] theorem emit_pc (b : Bytes) (s : State) : (emit b s).pc = s.pc := rfl
@[simp] theorem emit_flg (b : Bytes) (s : State) : (emit b s).flg = s.flg := rfl
@[simp] theorem emit_pl (b : Bytes) (s : State) : (emit b s).pl = s.pl := rfl
@[simp] theorem emit_sets (b : Bytes) (s : State) : (emit b s).sets = s.sets := rfl
@[simp] theorem emit_sf (b : Bytes) (s : State) : (emit b s).sf = s.sf := rfl
@[simp] theorem emit_nsub (b : Bytes) (s : State) : (emit b s).nsub = s.nsub := rfl
@[simp] theorem emit_png (b : Bytes) (s : State) : (emit b s).png = s.png := rfl
@[simp] theorem emit_gif (b : Bytes) (s : State) : (emit b s).gif = s.gif := rfl
@[simp] theorem emit_fout (b : Bytes) (s : State) : (emit b s).fout = s.fout := rfl
@[simp] theorem emit_host (b : Bytes) (s : State) : (emit b s).host = s.host := rfl

/-! ## `goto` -/

@[simp] theorem goto_par (p : BitVec 6) (s : State) : (goto p s).par = s.par := rfl
@[simp] theorem goto_ctl (p : BitVec 6) (s : State) : (goto p s).ctl = s.ctl := rfl
@[simp] theorem goto_mem (p : BitVec 6) (s : State) : (goto p s).mem = s.mem := rfl
@[simp] theorem goto_out (p : BitVec 6) (s : State) : (goto p s).out = s.out := rfl
@[simp] theorem goto_pc (p : BitVec 6) (s : State) : (goto p s).pc = { s.pc with phase := p } := rfl
@[simp] theorem goto_flg (p : BitVec 6) (s : State) : (goto p s).flg = s.flg := rfl
@[simp] theorem goto_pl (p : BitVec 6) (s : State) : (goto p s).pl = s.pl := rfl
@[simp] theorem goto_sets (p : BitVec 6) (s : State) : (goto p s).sets = s.sets := rfl
@[simp] theorem goto_sf (p : BitVec 6) (s : State) : (goto p s).sf = s.sf := rfl
@[simp] theorem goto_nsub (p : BitVec 6) (s : State) : (goto p s).nsub = s.nsub := rfl
@[simp] theorem goto_png (p : BitVec 6) (s : State) : (goto p s).png = s.png := rfl
@[simp] theorem goto_gif (p : BitVec 6) (s : State) : (goto p s).gif = s.gif := rfl
@[simp] theorem goto_fout (p : BitVec 6) (s : State) : (goto p s).fout = s.fout := rfl
@[simp] theorem goto_host (p : BitVec 6) (s : State) : (goto p s).host = s.host := rfl

/-! ## `gotoFrame` -/

@[simp] theorem gotoFrame_par (p : BitVec 6) (i : BitVec 8) (s : State) :
    (gotoFrame p i s).par = s.par := rfl
@[simp] theorem gotoFrame_ctl (p : BitVec 6) (i : BitVec 8) (s : State) :
    (gotoFrame p i s).ctl = s.ctl := rfl
@[simp] theorem gotoFrame_mem (p : BitVec 6) (i : BitVec 8) (s : State) :
    (gotoFrame p i s).mem = s.mem := rfl
@[simp] theorem gotoFrame_out (p : BitVec 6) (i : BitVec 8) (s : State) :
    (gotoFrame p i s).out = s.out := rfl
@[simp] theorem gotoFrame_pc (p : BitVec 6) (i : BitVec 8) (s : State) :
    (gotoFrame p i s).pc = { s.pc with phase := p, fi := i } := rfl
@[simp] theorem gotoFrame_flg (p : BitVec 6) (i : BitVec 8) (s : State) :
    (gotoFrame p i s).flg = s.flg := rfl
@[simp] theorem gotoFrame_pl (p : BitVec 6) (i : BitVec 8) (s : State) :
    (gotoFrame p i s).pl = s.pl := rfl
@[simp] theorem gotoFrame_sets (p : BitVec 6) (i : BitVec 8) (s : State) :
    (gotoFrame p i s).sets = s.sets := rfl
@[simp] theorem gotoFrame_sf (p : BitVec 6) (i : BitVec 8) (s : State) :
    (gotoFrame p i s).sf = s.sf := rfl
@[simp] theorem gotoFrame_nsub (p : BitVec 6) (i : BitVec 8) (s : State) :
    (gotoFrame p i s).nsub = s.nsub := rfl
@[simp] theorem gotoFrame_png (p : BitVec 6) (i : BitVec 8) (s : State) :
    (gotoFrame p i s).png = s.png := rfl
@[simp] theorem gotoFrame_gif (p : BitVec 6) (i : BitVec 8) (s : State) :
    (gotoFrame p i s).gif = s.gif := rfl
@[simp] theorem gotoFrame_fout (p : BitVec 6) (i : BitVec 8) (s : State) :
    (gotoFrame p i s).fout = s.fout := rfl
@[simp] theorem gotoFrame_host (p : BitVec 6) (i : BitVec 8) (s : State) :
    (gotoFrame p i s).host = s.host := rfl

/-! ## `gotoSub` -/

@[simp] theorem gotoSub_par (p : BitVec 6) (k : BitVec 8) (s : State) :
    (gotoSub p k s).par = s.par := rfl
@[simp] theorem gotoSub_ctl (p : BitVec 6) (k : BitVec 8) (s : State) :
    (gotoSub p k s).ctl = s.ctl := rfl
@[simp] theorem gotoSub_mem (p : BitVec 6) (k : BitVec 8) (s : State) :
    (gotoSub p k s).mem = s.mem := rfl
@[simp] theorem gotoSub_out (p : BitVec 6) (k : BitVec 8) (s : State) :
    (gotoSub p k s).out = s.out := rfl
@[simp] theorem gotoSub_pc (p : BitVec 6) (k : BitVec 8) (s : State) :
    (gotoSub p k s).pc = { s.pc with phase := p, k := k } := rfl
@[simp] theorem gotoSub_flg (p : BitVec 6) (k : BitVec 8) (s : State) :
    (gotoSub p k s).flg = s.flg := rfl
@[simp] theorem gotoSub_pl (p : BitVec 6) (k : BitVec 8) (s : State) :
    (gotoSub p k s).pl = s.pl := rfl
@[simp] theorem gotoSub_sets (p : BitVec 6) (k : BitVec 8) (s : State) :
    (gotoSub p k s).sets = s.sets := rfl
@[simp] theorem gotoSub_sf (p : BitVec 6) (k : BitVec 8) (s : State) :
    (gotoSub p k s).sf = s.sf := rfl
@[simp] theorem gotoSub_nsub (p : BitVec 6) (k : BitVec 8) (s : State) :
    (gotoSub p k s).nsub = s.nsub := rfl
@[simp] theorem gotoSub_png (p : BitVec 6) (k : BitVec 8) (s : State) :
    (gotoSub p k s).png = s.png := rfl
@[simp] theorem gotoSub_gif (p : BitVec 6) (k : BitVec 8) (s : State) :
    (gotoSub p k s).gif = s.gif := rfl
@[simp] theorem gotoSub_fout (p : BitVec 6) (k : BitVec 8) (s : State) :
    (gotoSub p k s).fout = s.fout := rfl
@[simp] theorem gotoSub_host (p : BitVec 6) (k : BitVec 8) (s : State) :
    (gotoSub p k s).host = s.host := rfl

/-! ## `setRunState` -/

@[simp] theorem setRunState_par (r : RunState) (s : State) : (setRunState r s).par = s.par := rfl
@[simp] theorem setRunState_ctl (r : RunState) (s : State) :
    (setRunState r s).ctl = { s.ctl with status := { s.ctl.status with state := r } } := rfl
@[simp] theorem setRunState_mem (r : RunState) (s : State) : (setRunState r s).mem = s.mem := rfl
@[simp] theorem setRunState_out (r : RunState) (s : State) : (setRunState r s).out = s.out := rfl
@[simp] theorem setRunState_pc (r : RunState) (s : State) : (setRunState r s).pc = s.pc := rfl
@[simp] theorem setRunState_flg (r : RunState) (s : State) : (setRunState r s).flg = s.flg := rfl
@[simp] theorem setRunState_pl (r : RunState) (s : State) : (setRunState r s).pl = s.pl := rfl
@[simp] theorem setRunState_sets (r : RunState) (s : State) : (setRunState r s).sets = s.sets := rfl
@[simp] theorem setRunState_sf (r : RunState) (s : State) : (setRunState r s).sf = s.sf := rfl
@[simp] theorem setRunState_nsub (r : RunState) (s : State) : (setRunState r s).nsub = s.nsub := rfl
@[simp] theorem setRunState_png (r : RunState) (s : State) : (setRunState r s).png = s.png := rfl
@[simp] theorem setRunState_gif (r : RunState) (s : State) : (setRunState r s).gif = s.gif := rfl
@[simp] theorem setRunState_fout (r : RunState) (s : State) : (setRunState r s).fout = s.fout := rfl
@[simp] theorem setRunState_host (r : RunState) (s : State) : (setRunState r s).host = s.host := rfl

/-! ## `raiseError` -/

@[simp] theorem raiseError_par (c : BitVec 4) (f : BitVec 8) (s : State) :
    (raiseError c f s).par = s.par := rfl
@[simp] theorem raiseError_ctl (c : BitVec 4) (f : BitVec 8) (s : State) :
    (raiseError c f s).ctl = { s.ctl with
        err := { code := c, frame := f }, status := { s.ctl.status with state := .error } } := rfl
@[simp] theorem raiseError_mem (c : BitVec 4) (f : BitVec 8) (s : State) :
    (raiseError c f s).mem = s.mem := rfl
@[simp] theorem raiseError_out (c : BitVec 4) (f : BitVec 8) (s : State) :
    (raiseError c f s).out = [] := rfl
@[simp] theorem raiseError_pc (c : BitVec 4) (f : BitVec 8) (s : State) :
    (raiseError c f s).pc = { s.pc with phase := phaseIdle } := rfl
@[simp] theorem raiseError_flg (c : BitVec 4) (f : BitVec 8) (s : State) :
    (raiseError c f s).flg = s.flg := rfl
@[simp] theorem raiseError_pl (c : BitVec 4) (f : BitVec 8) (s : State) :
    (raiseError c f s).pl = s.pl := rfl
@[simp] theorem raiseError_sets (c : BitVec 4) (f : BitVec 8) (s : State) :
    (raiseError c f s).sets = s.sets := rfl
@[simp] theorem raiseError_sf (c : BitVec 4) (f : BitVec 8) (s : State) :
    (raiseError c f s).sf = s.sf := rfl
@[simp] theorem raiseError_nsub (c : BitVec 4) (f : BitVec 8) (s : State) :
    (raiseError c f s).nsub = s.nsub := rfl
@[simp] theorem raiseError_png (c : BitVec 4) (f : BitVec 8) (s : State) :
    (raiseError c f s).png = s.png := rfl
@[simp] theorem raiseError_gif (c : BitVec 4) (f : BitVec 8) (s : State) :
    (raiseError c f s).gif = s.gif := rfl
@[simp] theorem raiseError_fout (c : BitVec 4) (f : BitVec 8) (s : State) :
    (raiseError c f s).fout = s.fout := rfl
@[simp] theorem raiseError_host (c : BitVec 4) (f : BitVec 8) (s : State) :
    (raiseError c f s).host = s.host := rfl

/-! ## `raiseFault` -/

@[simp] theorem raiseFault_par (c : BitVec 4) (s : State) : (raiseFault c s).par = s.par := rfl
@[simp] theorem raiseFault_ctl (c : BitVec 4) (s : State) :
    (raiseFault c s).ctl = { s.ctl with
        err := { code := c, frame := 0 }, status := { state := .error, fault := true } } := rfl
@[simp] theorem raiseFault_mem (c : BitVec 4) (s : State) : (raiseFault c s).mem = s.mem := rfl
@[simp] theorem raiseFault_out (c : BitVec 4) (s : State) : (raiseFault c s).out = [] := rfl
@[simp] theorem raiseFault_pc (c : BitVec 4) (s : State) :
    (raiseFault c s).pc = { s.pc with phase := phaseIdle } := rfl
@[simp] theorem raiseFault_flg (c : BitVec 4) (s : State) : (raiseFault c s).flg = s.flg := rfl
@[simp] theorem raiseFault_pl (c : BitVec 4) (s : State) : (raiseFault c s).pl = s.pl := rfl
@[simp] theorem raiseFault_sets (c : BitVec 4) (s : State) : (raiseFault c s).sets = s.sets := rfl
@[simp] theorem raiseFault_sf (c : BitVec 4) (s : State) : (raiseFault c s).sf = s.sf := rfl
@[simp] theorem raiseFault_nsub (c : BitVec 4) (s : State) : (raiseFault c s).nsub = s.nsub := rfl
@[simp] theorem raiseFault_png (c : BitVec 4) (s : State) : (raiseFault c s).png = s.png := rfl
@[simp] theorem raiseFault_gif (c : BitVec 4) (s : State) : (raiseFault c s).gif = s.gif := rfl
@[simp] theorem raiseFault_fout (c : BitVec 4) (s : State) : (raiseFault c s).fout = s.fout := rfl
@[simp] theorem raiseFault_host (c : BitVec 4) (s : State) : (raiseFault c s).host = s.host := rfl

/-! ## `acceptWrite` -/

@[simp] theorem acceptWrite_par (s : State) : (acceptWrite s).par = s.par := rfl
@[simp] theorem acceptWrite_ctl (s : State) :
    (acceptWrite s).ctl = { s.ctl with
        err := { code := 0, frame := 0 }, status := { s.ctl.status with state := .busy } } := rfl
@[simp] theorem acceptWrite_mem (s : State) : (acceptWrite s).mem = s.mem := rfl
@[simp] theorem acceptWrite_out (s : State) : (acceptWrite s).out = [] := rfl
@[simp] theorem acceptWrite_pc (s : State) :
    (acceptWrite s).pc = { s.pc with fi := 0, k := 0 } := rfl
@[simp] theorem acceptWrite_flg (s : State) : (acceptWrite s).flg = s.flg := rfl
@[simp] theorem acceptWrite_pl (s : State) :
    (acceptWrite s).pl = { plist := [], plen := 0, hasTrans := false } := rfl
@[simp] theorem acceptWrite_sets (s : State) : (acceptWrite s).sets = [] := rfl
@[simp] theorem acceptWrite_sf (s : State) : (acceptWrite s).sf = [] := rfl
@[simp] theorem acceptWrite_nsub (s : State) : (acceptWrite s).nsub = 0 := rfl
@[simp] theorem acceptWrite_png (s : State) : (acceptWrite s).png = { s.png with seq := 0 } := rfl
@[simp] theorem acceptWrite_gif (s : State) : (acceptWrite s).gif = s.gif := rfl
@[simp] theorem acceptWrite_fout (s : State) : (acceptWrite s).fout = s.fout := rfl
@[simp] theorem acceptWrite_host (s : State) : (acceptWrite s).host = s.host := rfl

/-! ## `chunk` -/

@[simp] theorem chunk_par (type : BitVec 32) (data : Bytes) (s : State) :
    (chunk type data s).par = s.par := rfl
@[simp] theorem chunk_ctl (type : BitVec 32) (data : Bytes) (s : State) :
    (chunk type data s).ctl = s.ctl := rfl
@[simp] theorem chunk_mem (type : BitVec 32) (data : Bytes) (s : State) :
    (chunk type data s).mem = s.mem := rfl
@[simp] theorem chunk_out (type : BitVec 32) (data : Bytes) (s : State) :
    (chunk type data s).out = s.out ++ chunkBytes type data := rfl
@[simp] theorem chunk_pc (type : BitVec 32) (data : Bytes) (s : State) :
    (chunk type data s).pc = s.pc := rfl
@[simp] theorem chunk_flg (type : BitVec 32) (data : Bytes) (s : State) :
    (chunk type data s).flg = s.flg := rfl
@[simp] theorem chunk_pl (type : BitVec 32) (data : Bytes) (s : State) :
    (chunk type data s).pl = s.pl := rfl
@[simp] theorem chunk_sets (type : BitVec 32) (data : Bytes) (s : State) :
    (chunk type data s).sets = s.sets := rfl
@[simp] theorem chunk_sf (type : BitVec 32) (data : Bytes) (s : State) :
    (chunk type data s).sf = s.sf := rfl
@[simp] theorem chunk_nsub (type : BitVec 32) (data : Bytes) (s : State) :
    (chunk type data s).nsub = s.nsub := rfl
@[simp] theorem chunk_png (type : BitVec 32) (data : Bytes) (s : State) :
    (chunk type data s).png = { s.png with crc := crcRegister (be32 type ++ data) } := rfl
@[simp] theorem chunk_gif (type : BitVec 32) (data : Bytes) (s : State) :
    (chunk type data s).gif = s.gif := rfl
@[simp] theorem chunk_fout (type : BitVec 32) (data : Bytes) (s : State) :
    (chunk type data s).fout = s.fout := rfl
@[simp] theorem chunk_host (type : BitVec 32) (data : Bytes) (s : State) :
    (chunk type data s).host = s.host := rfl

/-! ## `bumpSeq` -/

@[simp] theorem bumpSeq_par (s : State) : (bumpSeq s).par = s.par := rfl
@[simp] theorem bumpSeq_ctl (s : State) : (bumpSeq s).ctl = s.ctl := rfl
@[simp] theorem bumpSeq_mem (s : State) : (bumpSeq s).mem = s.mem := rfl
@[simp] theorem bumpSeq_out (s : State) : (bumpSeq s).out = s.out := rfl
@[simp] theorem bumpSeq_pc (s : State) : (bumpSeq s).pc = s.pc := rfl
@[simp] theorem bumpSeq_flg (s : State) : (bumpSeq s).flg = s.flg := rfl
@[simp] theorem bumpSeq_pl (s : State) : (bumpSeq s).pl = s.pl := rfl
@[simp] theorem bumpSeq_sets (s : State) : (bumpSeq s).sets = s.sets := rfl
@[simp] theorem bumpSeq_sf (s : State) : (bumpSeq s).sf = s.sf := rfl
@[simp] theorem bumpSeq_nsub (s : State) : (bumpSeq s).nsub = s.nsub := rfl
@[simp] theorem bumpSeq_png (s : State) :
    (bumpSeq s).png = { s.png with seq := s.png.seq + 1 } := rfl
@[simp] theorem bumpSeq_gif (s : State) : (bumpSeq s).gif = s.gif := rfl
@[simp] theorem bumpSeq_fout (s : State) : (bumpSeq s).fout = s.fout := rfl
@[simp] theorem bumpSeq_host (s : State) : (bumpSeq s).host = s.host := rfl

/-! ## `withQueue` -/

@[simp] theorem withQueue_par (q : List HostReq) (s : State) : (withQueue q s).par = s.par := rfl
@[simp] theorem withQueue_ctl (q : List HostReq) (s : State) : (withQueue q s).ctl = s.ctl := rfl
@[simp] theorem withQueue_mem (q : List HostReq) (s : State) : (withQueue q s).mem = s.mem := rfl
@[simp] theorem withQueue_out (q : List HostReq) (s : State) : (withQueue q s).out = s.out := rfl
@[simp] theorem withQueue_pc (q : List HostReq) (s : State) : (withQueue q s).pc = s.pc := rfl
@[simp] theorem withQueue_flg (q : List HostReq) (s : State) : (withQueue q s).flg = s.flg := rfl
@[simp] theorem withQueue_pl (q : List HostReq) (s : State) : (withQueue q s).pl = s.pl := rfl
@[simp] theorem withQueue_sets (q : List HostReq) (s : State) : (withQueue q s).sets = s.sets := rfl
@[simp] theorem withQueue_sf (q : List HostReq) (s : State) : (withQueue q s).sf = s.sf := rfl
@[simp] theorem withQueue_nsub (q : List HostReq) (s : State) : (withQueue q s).nsub = s.nsub := rfl
@[simp] theorem withQueue_png (q : List HostReq) (s : State) : (withQueue q s).png = s.png := rfl
@[simp] theorem withQueue_gif (q : List HostReq) (s : State) : (withQueue q s).gif = s.gif := rfl
@[simp] theorem withQueue_fout (q : List HostReq) (s : State) : (withQueue q s).fout = s.fout := rfl
@[simp] theorem withQueue_host (q : List HostReq) (s : State) :
    (withQueue q s).host = { s.host with queue := q } := rfl

end Sys2Proof.Machine
end

