-- ==== Sys2Proof/Laws/Ops.lean ====
section
/-! SUPPORT. For each shared operation one lemma that says all it can do; later proofs cite these
instead of unfolding the operation. -/

namespace Sys2Proof.Machine

/-! ## Sequencing -/

/-- A sequenced computation succeeds iff both halves do. -/
theorem Flow.andThen_eq_ok {α β : Type} (x : Flow α) (f : α → Flow β) (b : β) :
    x.andThen f = .ok b ↔ ∃ a, x = .ok a ∧ f a = .ok b := by
  cases x <;> simp [Flow.andThen]

/-- A loop over two lists is the first loop, then the second. -/
theorem Flow.loop_append {α β : Type} (f : α → β → Flow α) (a : α) (xs ys : List β) :
    Flow.loop f a (xs ++ ys) = (Flow.loop f a xs).andThen fun a' => Flow.loop f a' ys := by
  induction xs generalizing a with
  | nil => rfl
  | cons x xs ih =>
    simp only [List.cons_append, Flow.loop]
    cases f a x <;> simp [Flow.andThen, ih]

/-- An invariant that every pass keeps holds after the loop. -/
theorem Flow.loop_invariant {α β : Type} (f : α → β → Flow α) (P : α → Prop) (bs : List β) (a c : α)
    (keep : ∀ a b a', b ∈ bs → P a → f a b = .ok a' → P a') (ha : P a)
    (h : Flow.loop f a bs = .ok c) : P c := by
  induction bs generalizing a with
  | nil => cases h; exact ha
  | cons b bs ih =>
    obtain ⟨a', h1, h2⟩ := (Flow.andThen_eq_ok _ _ _).1 h
    exact ih a' (fun x y z hy => keep x y z (List.mem_cons_of_mem _ hy))
      (keep a b a' List.mem_cons_self ha h1) h2

/-- What an operation built on a computation answers when it answers a next state: the state of a
computation that succeeded, or fault entry from the state it started in. -/
theorem Flow.toOutcome_eq_next (s t : State) (x : Flow State) :
    x.toOutcome s = .next t ↔ x = .ok t ∨ ∃ c, x = .fault c ∧ t = raiseFault c s := by
  cases x <;> simp [Flow.toOutcome, eq_comm]

/-! ## The sequencer's choices -/

/-- `rasterLoop` only moves the program counter. -/
theorem rasterLoop_eq (i : Nat) (s : State) :
    rasterLoop i s = { s with
      pc :=
        if i < s.ctl.nframes.toNat then { s.pc with phase := phaseRaster, fi := BitVec.ofNat 8 i }
        else { s.pc with phase := phaseAssemble } } := by
  unfold rasterLoop
  split_ifs <;> rfl

/-- `pngLoop` only moves the program counter. -/
theorem pngLoop_eq (k : Nat) (s : State) :
    pngLoop k s = { s with
      pc :=
        if k < s.nsub.toNat then { s.pc with phase := phaseFctl, k := BitVec.ofNat 8 k }
        else { s.pc with phase := phaseIend } } := by
  unfold pngLoop
  split_ifs <;> rfl

/-- `afterTrns` only moves the program counter. -/
theorem afterTrns_eq (s : State) :
    afterTrns s = { s with
      pc := { s.pc with phase := if animated s then phaseActl else phaseIdat } } := by
  unfold afterTrns
  split_ifs <;> rfl

/-- `gifLoop` only moves the program counter. -/
theorem gifLoop_eq (k : Nat) (s : State) :
    gifLoop k s = { s with
      pc :=
        if k < s.nsub.toNat then
          { s.pc with
            phase := if emitsGce s then phaseGce else phaseImgdesc, k := BitVec.ofNat 8 k }
        else { s.pc with phase := phaseTrailer } } := by
  unfold gifLoop
  split_ifs <;> rfl

/-- `toEncoder` moves the program counter, and sets `TFLAG` for GIF. -/
theorem toEncoder_eq (s : State) :
    toEncoder s = { s with
      flg :=
        { s.flg with
          tflag := if s.flg.efmt = 1 then s.flg.tflag else tflagFor s.ctl s.pl.hasTrans }
      pc := { s.pc with phase := if s.flg.efmt = 1 then phaseSig else phaseGhdr } } := by
  unfold toEncoder
  split_ifs <;> rfl

/-! ## The palette and the compressor -/

/-- All that `PALADD` can do. -/
theorem palAdd_cases (ctl : Control) (p : PaletteRegs) (c : ColourNo) :
    (c = 0 ∧ palAdd ctl p c = .ok { p with hasTrans := true }) ∨
      (c ≠ 0 ∧ palColour ctl c ∈ p.plist ∧ palAdd ctl p c = .ok p) ∨
      (c ≠ 0 ∧ palColour ctl c ∉ p.plist ∧ p.plen = 256 ∧ palAdd ctl p c = .fault fPalette) ∨
      (c ≠ 0 ∧ palColour ctl c ∉ p.plist ∧ p.plen ≠ 256 ∧
        palAdd ctl p c =
          .ok { p with plist := p.plist ++ [palColour ctl c], plen := p.plen + 1 }) := by
  unfold palAdd
  split_ifs <;> simp_all

/-- A code goes out at the current width unless the width has passed 12. -/
theorem lzwOut_eq_ok (r : LzwRegs) (c : BitVec 12) (x : Code) :
    lzwOut r c = .ok x ↔ r.width.toNat ≤ 12 ∧ x = { code := c, width := r.width } := by
  unfold lzwOut
  split_ifs with h
  · simp; omega
  · simp [Nat.not_lt.1 h, eq_comm]

/-- All that the step for one further pixel can do when it succeeds (R212). -/
theorem lzwStep_cases (m : Nat) (r : LzwRegs) (k : BitVec 8) (r' : LzwRegs) (cs : List Code)
    (h : lzwStep m r k = .ok (r', cs)) :
    (∃ c, dictGet r.pfx k r.dict = some c ∧ r' = { r with pfx := c } ∧ cs = []) ∨
      (dictGet r.pfx k r.dict = none ∧ r.width.toNat ≤ 12 ∧ r.next.toNat < 4096 ∧
        cs = [{ code := r.pfx, width := r.width }] ∧
        ∃ q, lzwAssign r k = .ok q ∧ r' = { q with pfx := lzwRoot k }) ∨
      (dictGet r.pfx k r.dict = none ∧ r.width.toNat ≤ 12 ∧ 4096 ≤ r.next.toNat ∧
        cs = [{ code := r.pfx, width := r.width }, { code := lzwClear m, width := r.width }] ∧
        r' = lzwReset m (lzwRoot k)) := by
  unfold lzwStep at h
  split at h
  · rename_i c hc
    cases h
    exact .inl ⟨c, hc, rfl, rfl⟩
  · rename_i hn
    obtain ⟨c1, h1, h⟩ := (Flow.andThen_eq_ok _ _ _).1 h
    obtain ⟨hw, rfl⟩ := (lzwOut_eq_ok _ _ _).1 h1
    split_ifs at h with hf
    · obtain ⟨q, hq, h⟩ := (Flow.andThen_eq_ok _ _ _).1 h
      cases h
      exact .inr (.inl ⟨hn, hw, hf, rfl, q, hq, rfl⟩)
    · obtain ⟨c2, h2, h⟩ := (Flow.andThen_eq_ok _ _ _).1 h
      obtain ⟨-, rfl⟩ := (lzwOut_eq_ok _ _ _).1 h2
      cases h
      exact .inr (.inr ⟨hn, hw, Nat.not_lt.1 hf, rfl, rfl⟩)

/-! ## The DEFLATE port -/

/-- R176 (b) for whatever answers the port. -/
theorem inflate_deflate (port : Config.DeflatePort) (level : BitVec 4) (raw : Bytes)
    (h : level.toNat ≤ 9) : inflate port (deflate port level raw) = raw := by
  cases port
  · exact external.roundTrip level raw h
  · exact inflateStored_deflateStored raw

/-- R176 (c): of the external compressor for every pixel stream of the block, and of either answerer
where stored blocks would fit (log 11, log 12). -/
theorem deflate_fits (port : Config.DeflatePort) (level : BitVec 4) (raw : Bytes)
    (h : level.toNat ≤ 9)
    (hk : (port = .external ∧ Config.Scanlines raw) ∨ Config.storedLength raw.length + 4 < 2 ^ 31) :
    (deflate port level raw).length + 4 < 2 ^ 31 := by
  cases port
  · exact external.fits level raw h (hk.imp_left (·.2))
  · exact Nat.lt_of_le_of_lt (Nat.add_le_add_right (deflateStored_length raw) 4)
      (hk.resolve_left fun h => nomatch h.1)

/-- The number of bytes of a packed row, the accumulator holding `cnt` bits. -/
theorem packRow_length (d : Nat) (hd : d = 1 ∨ d = 2 ∨ d = 4 ∨ d = 8) (row : List (BitVec 8))
    (acc cnt : Nat) (hc : cnt < 8) (hm : cnt % d = 0) :
    (packRow d acc cnt row).length = (cnt + row.length * d + 7) / 8 := by
  induction row generalizing acc cnt with
  | nil =>
    rw [packRow]
    split <;> simp <;> omega
  | cons p ps ih =>
    rw [packRow]
    split
    · rw [List.length_cons, ih 0 0 (by decide) (Nat.zero_mod d), List.length_cons, Nat.succ_mul]
      omega
    · have : cnt + d < 8 := by rcases hd with rfl | rfl | rfl | rfl <;> omega
      rw [ih _ _ this (by simp [hm]), List.length_cons, Nat.succ_mul]
      congr 1
      omega

/-- The pixel stream of a sub-frame at a depth of at most 4 has the form that R176 (c) is about. -/
theorem packScan_scanlines (f : SubFrame) (d : Nat) (hd : d = 1 ∨ d = 2 ∨ d = 4) :
    Config.Scanlines (packScan f d) := by
  have hw := f.w.isLt
  have hh := f.h.isLt
  refine ⟨(List.range f.h.toNat).map fun y => packRow d 0 0 (idxRow f y), (f.w.toNat * d + 7) / 8,
    ?_, ?_, ?_, ?_⟩
  · simp
    omega
  · rcases hd with rfl | rfl | rfl <;> omega
  · intro r hr
    obtain ⟨y, -, rfl⟩ := List.mem_map.1 hr
    rw [packRow_length d (by omega) _ _ _ (by decide) (Nat.zero_mod d), idxRow, List.length_map,
      List.length_range, Nat.zero_add]
  · rw [packScan, Config.scanlines, List.flatMap_map]

/-! ## The host port and the step -/

/-- All that a host write to a control register can do. -/
theorem hostWrite_cases (n : Nat) (v : BitVec 32) (s t : State) (h : hostWrite n v s = .next t) :
    s.ctl.status.state ≠ .busy ∧
      ((regOf s.par.nfMax.toNat n = .cmd ∧ cmdWrite (v.extractLsb' 0 8) s = .next t) ∨
        ∃ r, regOf s.par.nfMax.toNat n = r ∧ r ≠ .cmd ∧
          t = { s with ctl := regWrite s.ctl r v }) := by
  unfold hostWrite at h
  split_ifs at h with hb
  refine ⟨by simpa [isBusy] using hb, ?_⟩
  generalize hr : regOf s.par.nfMax.toNat n = r at h
  cases r with
  | cmd => exact .inl ⟨rfl, h⟩
  | _ => cases h; exact .inr ⟨_, rfl, by simp, rfl⟩

/-- A `CMD` write runs a `WRITE` or does nothing. -/
theorem cmdWrite_cases (v : Byte) (s t : State) (h : cmdWrite v s = .next t) :
    (cmdOp v = 1 ∧ exec (.write (cmdFmt v)) s = .next t) ∨ (cmdOp v ≠ 1 ∧ t = s) := by
  unfold cmdWrite decodeCmd at h
  split_ifs at h with hv
  · exact .inl ⟨hv, h⟩
  · cases h; exact .inr ⟨hv, rfl⟩

/-- The sequencer runs the operation that `PHASE` names. -/
theorem seqStep_cases (s t : State) (h : seqStep s = .next t) :
    ∃ i, decodePhase s.pc.phase = .ok i ∧ exec i s = .next t := by
  unfold seqStep at h
  split at h
  · exact ⟨_, by assumption, h⟩
  · cases h

/-- All that a step can do when it answers a next state. -/
theorem step_cases (s t : State) (h : step s = .next t) :
    (s.host.queue = [] ∧ seqStep s = .next t) ∨
      (∃ q, s.host.queue = .tick :: q ∧ seqStep (withQueue q s) = .next t) ∨
      (∃ q, s.host.queue = .wait :: q ∧ s.ctl.status.state = .busy ∧ seqStep s = .next t) ∨
      (∃ q, s.host.queue = .wait :: q ∧ s.ctl.status.state ≠ .busy ∧ t = withQueue q s) ∨
      (∃ n v q, s.host.queue = .write n v :: q ∧ hostWrite n v (withQueue q s) = .next t) ∨
      (∃ n q, s.host.queue = .read n :: q ∧ hostRead n (withQueue q s) = .next t) ∨
      (∃ a b q, s.host.queue = .memWrite a b :: q ∧ hostMemWrite a b (withQueue q s) = .next t) ∨
      (∃ q, s.host.queue = .readOut :: q ∧ hostReadOut (withQueue q s) = .next t) ∨
      ∃ q, s.host.queue = .reset :: q ∧ hostReset (withQueue q s) = .next t := by
  unfold step stepOnce at h
  split at h
  · exact .inl ⟨by assumption, h⟩
  · exact .inr (.inr (.inr (.inr (.inl ⟨_, _, _, by assumption, h⟩))))
  · exact .inr (.inr (.inr (.inr (.inr (.inl ⟨_, _, by assumption, h⟩)))))
  · exact .inr (.inr (.inr (.inr (.inr (.inr (.inl ⟨_, _, _, by assumption, h⟩))))))
  · exact .inr (.inr (.inr (.inr (.inr (.inr (.inr (.inl ⟨_, by assumption, h⟩)))))))
  · exact .inr (.inr (.inr (.inr (.inr (.inr (.inr (.inr ⟨_, by assumption, h⟩)))))))
  · exact .inr (.inl ⟨_, by assumption, h⟩)
  · split_ifs at h with hb
    · exact .inr (.inr (.inl ⟨_, by assumption, by simpa [isBusy] using hb, h⟩))
    · cases h
      exact .inr (.inr (.inr (.inl ⟨_, by assumption, by simpa [isBusy] using hb, rfl⟩)))

end Sys2Proof.Machine
end

