-- ==== Sys2Proof/Laws/PerInstr.lean ====
section
/-! SUPPORT. Statements made per instruction. -/

namespace Sys2Proof.Laws

/-- The space an instruction's bits belong to (R97, R98): only `WRITE` has a `CMD` byte, and its
ignored bits `v[7:6]` are written 0; what has a `PHASE` code has no operand bits, so it meets every
operand contract. -/
def EncodingSpace.Statement (i : Instr) : Prop :=
  (∀ v, encode i = some (.cmd v) → (∃ fmt, i = .write fmt) ∧ v.extractLsb' 6 2 = 0) ∧
    ∀ code, encode i = some (.phase code) → WellFormed i = true

theorem EncodingSpace.write (fmt : BitVec 2) : EncodingSpace.Statement (.write fmt) := by
  refine ⟨fun v h => ?_, fun code h => rfl⟩
  cases h
  exact ⟨⟨fmt, rfl⟩, by revert fmt; decide⟩

theorem EncodingSpace.idle : EncodingSpace.Statement .idle :=
  ⟨nofun, fun _ _ => rfl⟩

theorem EncodingSpace.validate : EncodingSpace.Statement .validate :=
  ⟨nofun, fun _ _ => rfl⟩

theorem EncodingSpace.raster : EncodingSpace.Statement .raster :=
  ⟨nofun, fun _ _ => rfl⟩

theorem EncodingSpace.assemble : EncodingSpace.Statement .assemble :=
  ⟨nofun, fun _ _ => rfl⟩

theorem EncodingSpace.sig : EncodingSpace.Statement .sig :=
  ⟨nofun, fun _ _ => rfl⟩

theorem EncodingSpace.ihdr : EncodingSpace.Statement .ihdr :=
  ⟨nofun, fun _ _ => rfl⟩

theorem EncodingSpace.plte : EncodingSpace.Statement .plte :=
  ⟨nofun, fun _ _ => rfl⟩

theorem EncodingSpace.trns : EncodingSpace.Statement .trns :=
  ⟨nofun, fun _ _ => rfl⟩

theorem EncodingSpace.actl : EncodingSpace.Statement .actl :=
  ⟨nofun, fun _ _ => rfl⟩

theorem EncodingSpace.fctl : EncodingSpace.Statement .fctl :=
  ⟨nofun, fun _ _ => rfl⟩

theorem EncodingSpace.idat : EncodingSpace.Statement .idat :=
  ⟨nofun, fun _ _ => rfl⟩

theorem EncodingSpace.fdat : EncodingSpace.Statement .fdat :=
  ⟨nofun, fun _ _ => rfl⟩

theorem EncodingSpace.iend : EncodingSpace.Statement .iend :=
  ⟨nofun, fun _ _ => rfl⟩

theorem EncodingSpace.ghdr : EncodingSpace.Statement .ghdr :=
  ⟨nofun, fun _ _ => rfl⟩

theorem EncodingSpace.lsd : EncodingSpace.Statement .lsd :=
  ⟨nofun, fun _ _ => rfl⟩

theorem EncodingSpace.gct : EncodingSpace.Statement .gct :=
  ⟨nofun, fun _ _ => rfl⟩

theorem EncodingSpace.appext : EncodingSpace.Statement .appext :=
  ⟨nofun, fun _ _ => rfl⟩

theorem EncodingSpace.gce : EncodingSpace.Statement .gce :=
  ⟨nofun, fun _ _ => rfl⟩

theorem EncodingSpace.imgdesc : EncodingSpace.Statement .imgdesc :=
  ⟨nofun, fun _ _ => rfl⟩

theorem EncodingSpace.imgdata : EncodingSpace.Statement .imgdata :=
  ⟨nofun, fun _ _ => rfl⟩

theorem EncodingSpace.trailer : EncodingSpace.Statement .trailer :=
  ⟨nofun, fun _ _ => rfl⟩

theorem EncodingSpace.finish : EncodingSpace.Statement .finish :=
  ⟨nofun, fun _ _ => rfl⟩

theorem EncodingSpace.attrdec (attr : Byte) : EncodingSpace.Statement (.attrdec attr) :=
  ⟨nofun, nofun⟩

theorem EncodingSpace.pixselNone (inkBit maskBit : Bool) (paper ink : ColourNo) :
    EncodingSpace.Statement (.pixselNone inkBit maskBit paper ink) :=
  ⟨nofun, nofun⟩

theorem EncodingSpace.pixselOrand (inkBit maskBit : Bool) (paper ink : ColourNo) :
    EncodingSpace.Statement (.pixselOrand inkBit maskBit paper ink) :=
  ⟨nofun, nofun⟩

theorem EncodingSpace.pixselAndor (inkBit maskBit : Bool) (paper ink : ColourNo) :
    EncodingSpace.Statement (.pixselAndor inkBit maskBit paper ink) :=
  ⟨nofun, nofun⟩

theorem EncodingSpace.paladd (c : ColourNo) : EncodingSpace.Statement (.paladd c) :=
  ⟨nofun, nofun⟩

theorem EncodingSpace.indexmap (c : ColourNo) : EncodingSpace.Statement (.indexmap c) :=
  ⟨nofun, nofun⟩

theorem EncodingSpace.crc32 (b : Bytes) : EncodingSpace.Statement (.crc32 b) :=
  ⟨nofun, nofun⟩

theorem EncodingSpace.chunk (type : BitVec 32) (data : Bytes) :
    EncodingSpace.Statement (.chunk type data) :=
  ⟨nofun, nofun⟩

theorem EncodingSpace.packscan (k : BitVec 8) (d : BitVec 4) :
    EncodingSpace.Statement (.packscan k d) :=
  ⟨nofun, nofun⟩

theorem EncodingSpace.deflate (level : BitVec 4) (raw : Bytes) :
    EncodingSpace.Statement (.deflate level raw) :=
  ⟨nofun, nofun⟩

theorem EncodingSpace.lzw (pixels : List (BitVec 8)) (m : BitVec 4) :
    EncodingSpace.Statement (.lzw pixels m) :=
  ⟨nofun, nofun⟩

theorem EncodingSpace.bitpack (codes : List Code) : EncodingSpace.Statement (.bitpack codes) :=
  ⟨nofun, nofun⟩

theorem EncodingSpace.subblock (bytes : Bytes) : EncodingSpace.Statement (.subblock bytes) :=
  ⟨nofun, nofun⟩

end Sys2Proof.Laws
end

