-- ==== Sys2Proof/Laws/Raster.lean ====
section
/-! SUPPORT. What the block computes for a source pixel, in the terms that Safety.lean gives it from the
record's bytes: the attribute byte's colours and
flashing bit, the two colours that `PIXSEL` selects, and what a record read from cell memory holds. -/

namespace Sys2Proof.Machine

/-- A record that holds what cell memory holds at the address of a source pixel. -/
def IsRecord (s : State) (f : FrameDesc) (sy sx : Nat) (r : Bytes) : Prop :=
  ∀ i, i < 18 → (r.getD i 0).toNat = recordByte s f sy sx i

theorem attrDec_ink (a : Byte) : (attrDec a).ink = BitVec.ofNat 4 (attrColour a.toNat 0) := by
  revert a
  decide +kernel

theorem attrDec_paper (a : Byte) : (attrDec a).paper = BitVec.ofNat 4 (attrColour a.toNat 3) := by
  revert a
  decide +kernel

theorem attrDec_flashing (a : Byte) :
    (attrDec a).flashing = decide (a.toNat / 128 = 1 ∧ attrColour a.toNat 3 ≠ attrColour a.toNat 0) := by
  revert a
  decide +kernel

/-- A bit of a byte, as arithmetic. -/
theorem getLsbD_eq_div_mod (a : Byte) (i : Nat) : a.getLsbD i = decide (a.toNat / 2 ^ i % 2 = 1) :=
  Nat.testBit_eq_decide_div_mod_eq

theorem cellFlashing_eq (s : State) (f : FrameDesc) (sy sx : Nat) (r : Bytes)
    (h : IsRecord s f sy sx r) : cellFlashing s.flg.useFlash r = sourceFlashing s f sy sx := by
  rw [cellFlashing, attrDec_flashing, recAttr, h 0 (by decide)]
  rfl

/-- The two colours of source pixel (`px`, `py`) of the cell in row `cr` and column `cc`. -/
theorem pixelColours_eq (s : State) (f : FrameDesc) (r : Bytes) (cr cc py px : Nat) (hy : py < 8)
    (hx : px < 8) (h : IsRecord s f (8 * cr + py) (8 * cc + px) r) :
    pixelColours f s.flg.useFlash r py px =
      (BitVec.ofNat 4 (sourceDisplay s f (8 * cr + py) (8 * cc + px)),
        if sourceFlashing s f (8 * cr + py) (8 * cc + px) then
          BitVec.ofNat 4 (sourceAlt s f (8 * cr + py) (8 * cc + px))
        else BitVec.ofNat 4 (sourceDisplay s f (8 * cr + py) (8 * cc + px))) := by
  rw [← cellFlashing_eq s f _ _ r h]
  have hpy : (8 * cr + py) % 8 = py := by omega
  have hpx : (8 * cc + px) % 8 = px := by omega
  have hm : f.maskMode = 0 ∨ f.maskMode = 1 ∨ f.maskMode = 2 ∨ f.maskMode = 3 := by
    generalize f.maskMode = m; revert m; decide
  simp only [pixelColours, cellFlashing, sourceDisplay, sourceAlt, sourceSelect, sourceBit, sourceInk,
    sourcePaper, hpy, hpx, ← h 0 (by decide), ← h 1 (by decide), ← h (2 + py) (by omega),
    ← h (10 + py) (by omega), recInkBit, recMaskBit, effectiveMode, recHasMask, recAttr,
    attrDec_ink, attrDec_paper, getLsbD_eq_div_mod, Nat.pow_zero, Nat.div_one]
  have hi := Nat.mod_two_eq_zero_or_one ((r.getD (2 + py) 0).toNat / 2 ^ (7 - px))
  have hk := Nat.mod_two_eq_zero_or_one ((r.getD (10 + py) 0).toNat / 2 ^ (7 - px))
  generalize (r.getD (2 + py) 0).toNat / 2 ^ (7 - px) % 2 = ink at hi ⊢
  generalize (r.getD (10 + py) 0).toNat / 2 ^ (7 - px) % 2 = mask at hk ⊢
  generalize ((attrDec (r.getD 0 0)).flashing && s.flg.useFlash) = fl
  generalize (r.getD 1 0).toNat % 2 = hasMask
  by_cases hb : hasMask = 1 <;> rcases hm with hm | hm | hm | hm <;> rcases hi with rfl | rfl <;>
    rcases hk with rfl | rfl <;> cases fl <;>
    simp [hb, hm, pixsel, pixselNone, pixselOrand, pixselAndor]

/-- The record that `RASTER` reads for a cell is the record of each of its source pixels. -/
theorem isRecord_of_read (s : State) (f : FrameDesc) (r : Bytes) (cr cc py px : Nat) (hy : py < 8)
    (hx : px < 8)
    (h : memReadBytes s.par.cellMemSize s.mem (cellAddr f cr cc) 18 = .ok r) :
    IsRecord s f (8 * cr + py) (8 * cc + px) r := by
  have ha : recordAddr f (8 * cr + py) (8 * cc + px) = cellAddr f cr cc := by
    rw [recordAddr, cellAddr, show (8 * cr + py) / 8 = cr by omega,
      show (8 * cc + px) / 8 = cc by omega]
  intro i hi
  rw [recordByte, ha, List.getD_eq_getElem?_getD, ((memReadBytes_ok _ _ _ _ _ h).2 i hi).2]

end Sys2Proof.Machine
end

