-- ==== Sys2Proof/Tests/Slice0.lean ====
section
/-! SUPPORT. Tests on small states: words written out from spec/30_encoding.md, ill-formed operands,
vectors of spec/95_test_vectors.md and the rules' examples, and a witness for the hypotheses of every
statement. -/

namespace Sys2Proof.Tests

open Sys2Proof Sys2Proof.Machine

set_option Elab.async false

/-! ## Decoding: words written out from R71, R97, R98 -/

theorem test_decode_write : decode (.cmd 0b00010001) = .ok (.write 1) := by decide
theorem test_decode_write_ignores_high_bits : decode (.cmd 0b11110001) = .ok (.write 3) := by decide
theorem test_decode_reserved_op : decode (.cmd 0b00010010) = .error (.reservedOp 2) := by decide
theorem test_decode_idle : decode (.phase 0b000000) = .ok .idle := by decide
theorem test_decode_validate : decode (.phase 0b000001) = .ok .validate := by decide
theorem test_decode_raster : decode (.phase 0b000010) = .ok .raster := by decide
theorem test_decode_assemble : decode (.phase 0b000011) = .ok .assemble := by decide
theorem test_decode_sig : decode (.phase 0b010000) = .ok .sig := by decide
theorem test_decode_ihdr : decode (.phase 0b010001) = .ok .ihdr := by decide
theorem test_decode_plte : decode (.phase 0b010010) = .ok .plte := by decide
theorem test_decode_trns : decode (.phase 0b010011) = .ok .trns := by decide
theorem test_decode_actl : decode (.phase 0b010100) = .ok .actl := by decide
theorem test_decode_fctl : decode (.phase 0b010101) = .ok .fctl := by decide
theorem test_decode_idat : decode (.phase 0b010110) = .ok .idat := by decide
theorem test_decode_fdat : decode (.phase 0b010111) = .ok .fdat := by decide
theorem test_decode_iend : decode (.phase 0b011000) = .ok .iend := by decide
theorem test_decode_ghdr : decode (.phase 0b100000) = .ok .ghdr := by decide
theorem test_decode_lsd : decode (.phase 0b100001) = .ok .lsd := by decide
theorem test_decode_gct : decode (.phase 0b100010) = .ok .gct := by decide
theorem test_decode_appext : decode (.phase 0b100011) = .ok .appext := by decide
theorem test_decode_gce : decode (.phase 0b100100) = .ok .gce := by decide
theorem test_decode_imgdesc : decode (.phase 0b100101) = .ok .imgdesc := by decide
theorem test_decode_imgdata : decode (.phase 0b100110) = .ok .imgdata := by decide
theorem test_decode_trailer : decode (.phase 0b100111) = .ok .trailer := by decide
theorem test_decode_finish : decode (.phase 0b111111) = .ok .finish := by decide
theorem test_decode_unassigned : decode (.phase 0b011001) = .error (.unassignedPhase 0x19) := by decide
theorem test_decode_attrdec : decode (.attrByte 0b10001110) = .ok (.attrdec 0x8E) := by decide
theorem test_decode_pixsel_none :
    decode (.pixsel 0b00 true false 3 2) = .ok (.pixselNone true false 3 2) := by decide
theorem test_decode_pixsel_orand :
    decode (.pixsel 0b01 true false 3 2) = .ok (.pixselOrand true false 3 2) := by decide
theorem test_decode_pixsel_andor :
    decode (.pixsel 0b10 true false 3 2) = .ok (.pixselAndor true false 3 2) := by decide
theorem test_decode_pixsel_reserved :
    decode (.pixsel 0b11 true false 3 2) = .error (.reservedMode 3) := by decide

/-- R98: the other datapath functions "have no code". -/
theorem test_encode_uncoded :
    encode (.paladd 1) = none ∧ encode (.indexmap 1) = none ∧ encode (.crc32 []) = none ∧
      encode (.chunk 0 []) = none ∧ encode (.packscan 0 1) = none ∧ encode (.deflate 9 []) = none ∧
      encode (.lzw [0] 2) = none ∧ encode (.bitpack []) = none ∧ encode (.subblock []) = none := by
  decide

theorem test_table_word_phase : decodeTableWord 8 0x26 = some .imgdata := by decide
theorem test_table_word_cmd : decodeTableWord 8 0x31 = some (.write 3) := by decide

/-- The instruction of a table word runs as the first one after reset: `GHDR` appends "GIF89a". -/
theorem test_fetch_word :
    (match step (State.reset.withFetchWord 8 0x20) with | .next t => t.out | _ => []) =
      [0x47, 0x49, 0x46, 0x38, 0x39, 0x61] := by decide +kernel

/-! ## WellFormed: one ill-formed term for each check -/

theorem test_wf_pixsel_none_paper : WellFormed (.pixselNone true true 0 1) = false := by decide
theorem test_wf_pixsel_none_ink : WellFormed (.pixselNone true true 1 0) = false := by decide
theorem test_wf_pixsel_orand_paper : WellFormed (.pixselOrand true true 0 1) = false := by decide
theorem test_wf_pixsel_orand_ink : WellFormed (.pixselOrand true true 1 0) = false := by decide
theorem test_wf_pixsel_andor_paper : WellFormed (.pixselAndor true true 0 1) = false := by decide
theorem test_wf_pixsel_andor_ink : WellFormed (.pixselAndor true true 1 0) = false := by decide
theorem test_wf_chunk_length (n : Nat) (h : n = 2 ^ 31) :
    WellFormed (.chunk 0x49444154 (List.replicate n 0)) = false :=
  decide_eq_false (by rw [List.length_replicate, h]; exact Nat.lt_irrefl _)
theorem test_wf_packscan_depth : WellFormed (.packscan 0 3) = false := by decide
theorem test_wf_deflate_level : WellFormed (.deflate 10 []) = false := by decide
theorem test_wf_lzw_small : WellFormed (.lzw [0] 1) = false := by decide
theorem test_wf_lzw_large : WellFormed (.lzw [0] 9) = false := by decide
theorem test_wf_lzw_empty : WellFormed (.lzw [] 2) = false := by decide
theorem test_wf_lzw_pixel : WellFormed (.lzw [4] 2) = false := by decide
theorem test_wf_bitpack_narrow : WellFormed (.bitpack [⟨0, 2⟩]) = false := by decide
theorem test_wf_bitpack_wide : WellFormed (.bitpack [⟨0, 13⟩]) = false := by decide
theorem test_wf_bitpack_code : WellFormed (.bitpack [⟨8, 3⟩]) = false := by decide
theorem test_wf_lzw_ok : WellFormed (.lzw [3, 0] 2) = true := by decide

/-! ## Small states -/

/-- The parameters of the tests: two descriptors, the stored-block port (G4), `PAL_EX` (G1). -/
def params : Config.Params := 
  { Config.Params.reset with nfMax := 2, port := .stored, nfMax_pos := by decide }

/-- A frame of one cell at address 0, whole. -/
def frame : FrameDesc := { FrameDesc.blank with rows := 1, cols := 1, scale := 1, cropW := 8, cropH := 8 }

/-- V5.1's cell: paper 7 yellow, ink 2 blue, no mask. -/
def cell51 : Bytes := [0x31, 0x00, 0xB2, 0x4D, 0xE1, 0, 0, 0, 0, 0, 0, 0, 0, 0, 0, 0, 0, 0]

/-- Scenario B's cell: flash, paper 2 blue, ink 7 yellow, mask all ones. -/
def cellB : Bytes :=
  [0x8E, 0x01, 0, 0, 0x3C, 0x3C, 0x3C, 0x3C, 0, 0, 0xFF, 0xFF, 0xFF, 0xFF, 0xFF, 0xFF, 0xFF, 0xFF]

/-- `n` frames, each `f`, with a cell at address 0. -/
def withFrames (cell : Bytes) (f : FrameDesc) (n : BitVec 8) : State :=
  let s := State.resetWith params
  { s with mem := memWriteBytes [] 0 cell, ctl := { s.ctl with nframes := n, fd := [f, f] } }

/-- The same in the middle of a `WRITE`, about to perform the operation of a phase. -/
def busyAt (phase : BitVec 6) (s : State) : State :=
  { s with
    pc := { s.pc with phase := phase }
    ctl := { s.ctl with status := { s.ctl.status with state := .busy } } }

/-- With sub-frames and a palette, as `ASSEMBLE` leaves them. -/
def withSubs (sf : List SubFrame) (pl : List Colour) (trans : Bool) : State :=
  let s := State.resetWith params
  { s with
    sf := sf
    nsub := BitVec.ofNat 8 sf.length
    pl := { plist := pl, plen := BitVec.ofNat 9 pl.length, hasTrans := trans } }

/-- A sub-frame of one pixel. -/
def dot (i : BitVec 8) : SubFrame := { w := 1, h := 1, x := 0, y := 0, delay := 32, idx := [[i]] }

/-- With accesses queued by the host. -/
def queued (q : List HostReq) (s : State) : State := withQueue q s

def nextOf (x : Host.Outcome State Fault Refusal) : Option State :=
  match x with
  | .next t => some t
  | _ => none

def outOf (x : Host.Outcome State Fault Refusal) : Option Bytes := (nextOf x).map (·.out)

def resultOf (x : Host.Outcome State Fault Refusal) : Option FuncOut := (nextOf x).map (·.fout)

def statusOf (x : Host.Outcome State Fault Refusal) : Option (Status × Err × Bytes) := hostView x

/-- A computation that is seen to answer a next state does answer one. -/
theorem exists_next {x : Host.Outcome State Fault Refusal} (h : (nextOf x).isSome = true) :
    ∃ t, x = .next t := by
  cases x <;> simp_all [nextOf]

theorem exists_ok {α : Type} {x : Flow α}
    (h : (match x with | .ok _ => true | _ => false) = true) : ∃ a, x = .ok a := by
  cases x <;> simp_all

/-! ## The operations: vectors of spec/95_test_vectors.md and examples of the rules -/

/-- R246: `CMD <- 0x21` is `WRITE gif`. -/
theorem test_write_gif :
    (nextOf (exec (.write 2) (withFrames cell51 frame 1))).map (fun t => (t.flg.efmt, t.pc.phase)) =
      some (2, 0x01) := by decide +kernel
/-- R246: `CMD <- 0x31` raises E_FORMAT. -/
theorem test_write_unsupported :
    statusOf (exec (.write 3) (withFrames cell51 frame 0)) =
      some (⟨.error, false⟩, ⟨1, 0⟩, []) := by decide +kernel
theorem test_idle : exec .idle (withFrames cell51 frame 1) = .next (withFrames cell51 frame 1) := rfl
/-- Section 4: crop (1, 0, 8, 8) of one cell is E_CROP, frame 0. -/
theorem test_validate_crop :
    statusOf (exec .validate (withFrames cell51 { frame with cropX := 1 } 1)) =
      some (⟨.error, false⟩, ⟨3, 0⟩, []) := by decide +kernel
/-- Section 4: computed in 16 bits this frame would fail. -/
theorem test_validate_large :
    (nextOf (exec .validate (withFrames cell51
      { frame with
        rows := 255, cols := 255, scale := 255, cropX := 65535, cropY := 65535, cropW := 65535,
        cropH := 65535 } 1))).map (·.pc.phase) = some 0x02 := by decide +kernel
/-- V5.1: crop (5, 2, 2, 1) at scale 3. -/
theorem test_raster_tiny_crop :
    (nextOf (exec .raster (withFrames cell51
      { frame with scale := 3, cropX := 5, cropY := 2, cropW := 2, cropH := 1 } 1))).map
      (fun t => ((frameSet t 0).steady, t.pl.plist)) =
      some ([[7, 2]], [0xC5C600, 0x0000C5]) := by decide +kernel
/-- P2: the flash box (4, 4, 11, 11) of scenario B, here at scale 1. -/
theorem test_raster_flash_box :
    (nextOf (exec .raster
      { withFrames cellB { frame with maskMode := 1 } 1 with flg := ⟨2, true, false⟩ })).map
      (fun t => ((frameSet t 0).boxv, (frameSet t 0).minx, (frameSet t 0).miny,
        (frameSet t 0).maxx, (frameSet t 0).maxy)) =
      some (true, 2, 2, 5, 5) := by decide +kernel
/-- Section 6: box (4, 4, 11, 11), offset (100, 50), delay 32. -/
theorem test_assemble_box :
    (nextOf (exec .assemble
      { withFrames cellB
          { frame with cropW := 16, cropH := 16, offX := 100, offY := 50, delay := 32 } 1 with
        sets := [⟨[], [], true, 4, 4, 11, 11⟩] })).map
      (fun t => (t.nsub, (subFrame t 1).w, (subFrame t 1).h, (subFrame t 1).x, (subFrame t 1).y,
        (subFrame t 1).delay)) =
      some (2, 8, 8, 104, 54, 32) := by decide +kernel
/-- R144's example: the indices are positions in the Palette. -/
theorem test_assemble_indices :
    (nextOf (exec .assemble
      { withFrames cellB { frame with cropW := 3, cropH := 1 } 1 with
        sets := [⟨[[0, 7, 2]], [], false, 0, 0, 0, 0⟩]
        pl := ⟨[0xC5C600, 0x0000C5], 2, true⟩ })).map (fun t => (t.nsub, (subFrame t 0).idx)) =
      some (1, [[0, 1, 2]]) := by decide +kernel
theorem test_sig :
    outOf (exec .sig State.reset) = some [0x89, 0x50, 0x4E, 0x47, 0x0D, 0x0A, 0x1A, 0x0A] := by
  decide +kernel
/-- R165's example. -/
theorem test_ihdr :
    outOf (exec .ihdr (withSubs [{ dot 0 with w := 8, h := 8 }] [0xCDC6CD, 0x000000] false)) =
      some [0, 0, 0, 0x0D, 0x49, 0x48, 0x44, 0x52, 0, 0, 0, 8, 0, 0, 0, 8, 1, 3, 0, 0, 0, 0xFE, 0xC1,
        0x2C, 0xC8] := by decide +kernel
/-- R166's example. -/
theorem test_plte :
    outOf (exec .plte (withSubs [dot 0] [0xCDC6CD, 0x000000] false)) =
      some [0, 0, 0, 6, 0x50, 0x4C, 0x54, 0x45, 0xCD, 0xC6, 0xCD, 0, 0, 0, 0xEA, 0x63, 0x9F, 0x05] := by
  decide +kernel
/-- Section 7's guard: `ALPHA = 255` with transparent pixels emits no tRNS. -/
theorem test_plte_skips_trns :
    (nextOf (exec .plte (withSubs [dot 0] [0xCDC6CD] true))).map (·.pc.phase) = some 0x16 := by
  decide +kernel
/-- Section 7: tRNS 80. -/
theorem test_trns :
    outOf (exec .trns
      { State.reset with ctl := { State.reset.ctl with cfgPng := ⟨9, true, 0x80⟩ } }) =
      some [0, 0, 0, 1, 0x74, 0x52, 0x4E, 0x53, 0x80, 0xAD, 0x5E, 0x5B, 0x46] := by decide +kernel
/-- R168's example. -/
theorem test_actl :
    outOf (exec .actl (withSubs [dot 0, dot 0] [] false)) =
      some [0, 0, 0, 8, 0x61, 0x63, 0x54, 0x4C, 0, 0, 0, 2, 0, 0, 0, 0, 0xF3, 0x8D, 0x93, 0x70] := by
  decide +kernel
/-- P2's second fcTL: 1, 8, 8, 4, 4, 32. -/
theorem test_fctl :
    outOf (exec .fctl
      { withSubs [dot 0, { dot 0 with w := 8, h := 8, x := 4, y := 4 }] [] false with
        pc := ⟨0x15, 0, 1⟩, png := ⟨0, 1, 2⟩ }) =
      some [0, 0, 0, 0x1A, 0x66, 0x63, 0x54, 0x4C, 0, 0, 0, 1, 0, 0, 0, 8, 0, 0, 0, 8, 0, 0, 0, 4, 0, 0,
        0, 4, 0, 0x20, 0, 0x64, 0, 0, 0x93, 0x43, 0xE7, 0xB9] := by decide +kernel
/-- G4's example as the data of an IDAT: `00 80` stored. -/
theorem test_idat :
    (outOf (exec .idat { withSubs [dot 1] [0, 1] false with png := ⟨0, 0, 1⟩ })).map (·.take 21) =
      some [0, 0, 0, 0x0D, 0x49, 0x44, 0x41, 0x54, 0x78, 0x01, 0x01, 0x02, 0x00, 0xFD, 0xFF, 0x00, 0x80,
        0x00, 0x82, 0x00, 0x81] := by decide +kernel
/-- R173: the sequence number comes first, and `SEQ` is incremented. -/
theorem test_fdat :
    (nextOf (exec .fdat
      { withSubs [dot 0, dot 1] [0, 1] false with pc := ⟨0x17, 0, 1⟩, png := ⟨0, 2, 1⟩ })).map
      (fun t => (t.out.take 14, t.png.seq, t.pc.phase)) =
      some ([0, 0, 0, 0x11, 0x66, 0x64, 0x41, 0x54, 0, 0, 0, 2, 0x78, 0x01], 3, 0x18) := by
  decide +kernel
theorem test_iend :
    outOf (exec .iend State.reset) =
      some [0, 0, 0, 0, 0x49, 0x45, 0x4E, 0x44, 0xAE, 0x42, 0x60, 0x82] := by decide +kernel
theorem test_ghdr : outOf (exec .ghdr State.reset) = some [0x47, 0x49, 0x46, 0x38, 0x39, 0x61] := by
  decide +kernel
/-- R201's example. -/
theorem test_lsd :
    outOf (exec .lsd (withSubs [{ dot 0 with w := 16, h := 16 }] [0xC5C600, 0x0000C5] true)) =
      some [0x10, 0, 0x10, 0, 0x91, 0, 0] := by decide +kernel
/-- R202's example. -/
theorem test_gct :
    outOf (exec .gct (withSubs [dot 0] [0xC5C600, 0x0000C5] true)) =
      some [0, 0xFE, 0, 0xC5, 0xC6, 0, 0, 0, 0xC5, 0, 0, 0] := by decide +kernel
/-- R204's 19 bytes. -/
theorem test_appext :
    outOf (exec .appext (withSubs [dot 0, dot 0] [] false)) =
      some [0x21, 0xFF, 0x0B, 0x4E, 0x45, 0x54, 0x53, 0x43, 0x41, 0x50, 0x45, 0x32, 0x2E, 0x30, 0x03, 0x01,
        0, 0, 0] := by decide +kernel
/-- R206's examples. -/
theorem test_gce_transparent :
    outOf (exec .gce { withSubs [dot 0] [] true with flg := ⟨2, false, true⟩ }) =
      some [0x21, 0xF9, 0x04, 0x05, 0x20, 0, 0, 0] := by decide +kernel
theorem test_gce_opaque :
    outOf (exec .gce (withSubs [dot 0] [] true)) = some [0x21, 0xF9, 0x04, 0x04, 0x20, 0, 0, 0] := by
  decide +kernel
/-- R207's example. -/
theorem test_imgdesc :
    outOf (exec .imgdesc (withSubs [{ dot 0 with w := 8, h := 8, x := 4, y := 4 }] [] true)) =
      some [0x2C, 4, 0, 4, 0, 8, 0, 8, 0, 0] := by decide +kernel
/-- R208's example. -/
theorem test_imgdata :
    outOf (exec .imgdata (withSubs [dot 0] [0xCDC6CD] false)) = some [0x02, 0x02, 0x44, 0x01, 0x00] := by
  decide +kernel
/-- Section 9, the fifth row: the first code of 4 bits. -/
theorem test_imgdata_width :
    outOf (exec .imgdata
      (withSubs [{ dot 0 with w := 4, h := 2, idx := [[0, 1, 2, 3], [0, 1, 2, 3]] }] [1, 2, 3] true)) =
      some [0x02, 0x04, 0x44, 0x34, 0x86, 0x05, 0x00] := by decide +kernel
theorem test_trailer : outOf (exec .trailer State.reset) = some [0x3B] := by decide +kernel
theorem test_finish :
    (nextOf (exec .finish (busyAt 0x3F State.reset))).map (fun t => (t.ctl.status.state, t.pc.phase)) =
      some (.done, 0x00) := by decide +kernel
/-- Section 2. -/
theorem test_attrdec_white : resultOf (exec (.attrdec 56) State.reset) = some (.attr 8 1 false) := by
  decide +kernel
theorem test_attrdec_flash : resultOf (exec (.attrdec 0xC7) State.reset) = some (.attr 1 15 true) := by
  decide +kernel
/-- Section 3, column (1, 0). -/
theorem test_pixsel_none :
    resultOf (exec (.pixselNone true false 3 2) State.reset) = some (.pixel 2 3) := by decide +kernel
theorem test_pixsel_orand :
    resultOf (exec (.pixselOrand true false 3 2) State.reset) = some (.pixel 3 2) := by decide +kernel
theorem test_pixsel_andor :
    resultOf (exec (.pixselAndor true false 3 2) State.reset) = some (.pixel 2 3) := by decide +kernel
/-- R141's example: white, then black. -/
theorem test_paladd :
    (nextOf (exec (.paladd 1) (withSubs [] [0xCDC6CD] false))).map (·.pl.plist) =
      some [0xCDC6CD, 0x000000] := by decide +kernel
/-- R144's example. -/
theorem test_indexmap :
    resultOf (exec (.indexmap 2) (withSubs [] [0xC5C600, 0x0000C5] true)) = some (.index 2) := by
  decide +kernel
/-- Section 7. -/
theorem test_crc32_digits :
    resultOf (exec (.crc32 [0x31, 0x32, 0x33, 0x34, 0x35, 0x36, 0x37, 0x38, 0x39]) State.reset) =
      some (.crc 0xCBF43926) := by decide +kernel
theorem test_crc32_empty : resultOf (exec (.crc32 []) State.reset) = some (.crc 0) := by decide +kernel
/-- R161's table: the entries that section 7 names. -/
theorem test_crc_table :
    crcTab 1 = 0x77073096 ∧ crcTab 128 = 0xEDB88320 ∧ crcTab 255 = 0x2D02EF8D := by decide +kernel
theorem test_chunk :
    outOf (exec (.chunk 0x74524E53 [0x00]) State.reset) =
      some [0, 0, 0, 1, 0x74, 0x52, 0x4E, 0x53, 0x00, 0x40, 0xE6, 0xD8, 0x66] := by decide +kernel
/-- Section 8. -/
theorem test_packscan_2 :
    resultOf (exec (.packscan 0 2) (withSubs [{ dot 0 with w := 5, idx := [[1, 2, 3, 0, 1]] }] [] false)) =
      some (.bytes [0x00, 0x6C, 0x40]) := by decide +kernel
theorem test_packscan_8 :
    resultOf (exec (.packscan 0 8) (withSubs [{ dot 0 with w := 3, idx := [[1, 200, 7]] }] [] false)) =
      some (.bytes [0x00, 0x01, 0xC8, 0x07]) := by decide +kernel
/-- G4's example. -/
theorem test_deflate_stored :
    resultOf (exec (.deflate 9 [0x00, 0x80]) (State.resetWith params)) =
      some (.bytes [0x78, 0x01, 0x01, 0x02, 0x00, 0xFD, 0xFF, 0x00, 0x80, 0x00, 0x82, 0x00, 0x81]) := by
  decide +kernel
/-- `Inflate` of G4's example. -/
theorem test_inflate_stored :
    inflate .stored [0x78, 0x01, 0x01, 0x02, 0x00, 0xFD, 0xFF, 0x00, 0x80, 0x00, 0x82, 0x00, 0x81] =
      [0x00, 0x80] := by decide +kernel
/-- U1: the initial contents of `FD` are the argument's. -/
theorem test_reset_fd :
    let p := { params with fdReset := [frame], fdReset_legal := by decide }
    (State.resetWith p).ctl.fd = [frame, FrameDesc.blank] := by decide +kernel
/-- R213's examples. -/
theorem test_lzw_one :
    resultOf (exec (.lzw [0] 2) State.reset) = some (.codes [⟨4, 3⟩, ⟨0, 3⟩, ⟨5, 3⟩]) := by
  decide +kernel
theorem test_lzw_wide_stop :
    resultOf (exec (.lzw [1, 1, 1, 1] 2) State.reset) =
      some (.codes [⟨4, 3⟩, ⟨1, 3⟩, ⟨6, 3⟩, ⟨1, 3⟩, ⟨5, 4⟩]) := by decide +kernel
/-- R214's example. -/
theorem test_bitpack :
    resultOf (exec (.bitpack [⟨4, 3⟩, ⟨1, 3⟩, ⟨6, 3⟩, ⟨5, 3⟩]) State.reset) =
      some (.bytes [0x8C, 0x0B]) := by decide +kernel
/-- Section 9: 1 byte gives 3, and 255 bytes give one full sub-block. -/
theorem test_subblock_one : (subBlock [0xAB]).1 = [0x01, 0xAB, 0x00] := by decide +kernel
theorem test_subblock_full :
    (subBlock (List.replicate 255 7)).1 = 0xFF :: (List.replicate 255 7 ++ [0x00]) := by decide +kernel

/-! ## The host port (section 10) -/

/-- `CFG_PNG <- 0x801C` reads back 0x8019. -/
theorem test_host_option :
    (match steps 2 (queued [.write 0x04 0x801C, .read 0x04] State.reset) with
      | .next t => t.host.data
      | _ => 0) = 0x8019 := by decide +kernel
/-- After reset `CFG_PNG` reads 0xFF19. -/
theorem test_host_reset_value :
    (nextOf (step (queued [.read 0x04] State.reset))).map (·.host.data) = some 0xFF19 := by
  decide +kernel
/-- A write to cell memory, and the byte read back. -/
theorem test_host_memory :
    (nextOf (step (queued [.memWrite 5 [1, 2]] State.reset))).map (fun t => (memRead t.mem 6, t.mem)) =
      some (some 2, [(5, 1), (6, 2)]) := by decide +kernel
/-- Reset during a `WRITE` (R292). -/
theorem test_host_reset :
    statusOf (step (queued [.reset] (busyAt 0x12 State.reset))) = some (⟨.idle, false⟩, ⟨0, 0⟩, []) := by
  decide +kernel

/-! ## Witnesses: for every statement with hypotheses, a state and operands that meet them -/

/-- A block in the middle of `RASTER` of scenario B's cell at scale 1, one colour in the palette. -/
def rasterState : State :=
  let s := busyAt 0x02 (withFrames cellB { frame with maskMode := 1 } 1)
  { s with flg := ⟨2, true, false⟩, pl := ⟨[0xC5C600], 1, false⟩ }

/-- `CellsReadable` is a check over the grid. -/
theorem cellsReadable_of (s : State) (f : FrameDesc)
    (h : ((List.range f.cropH.toNat).all fun y => (List.range f.cropW.toNat).all fun x =>
      (List.range 18).all fun i => 
        decide (recordAddr f (sourceY f y) (sourceX f x) + i < s.par.cellMemSize) &&
          (memRead s.mem (recordAddr f (sourceY f y) (sourceX f x) + i)).isSome) = true) : CellsReadable s f := by
  intro y x i hy hx hi
  simp only [List.all_eq_true, List.mem_range, Bool.and_eq_true, decide_eq_true_eq] at h
  exact h y hy x hx i hi

theorem rasterState_frameOk : FrameOk (frameDesc rasterState.ctl rasterState.pc.fi.toNat) := by
  unfold FrameOk; decide +kernel

theorem rasterState_readable :
    CellsReadable rasterState (frameDesc rasterState.ctl rasterState.pc.fi.toNat) :=
  cellsReadable_of _ _ (by decide +kernel)

theorem rasterState_built : PaletteBuilt rasterState :=
  ⟨rfl, by decide +kernel, by
    intro v hv
    rw [List.mem_singleton.1 (show v ∈ [(0xC5C600 : Colour)] from hv)]
    exact ⟨7, by decide, by decide +kernel⟩⟩

theorem witness_DecodeEncodeAgree :
    encode .raster = some (.phase 0x02) ∧ decode (.phase 0x3F) = .ok .finish ∧
      decode (.cmd 0xE1) = .ok (.write 2) ∧ decode (.attrByte 0xFF) = .ok (.attrdec 0xFF) := by
  decide

theorem witness_ReservedCommandIgnored :
    let s := queued [.write 0x00 0x10] State.reset
    s.host.queue = [.write 0x00 0x10] ∧ s.ctl.status.state ≠ .busy ∧
      (0x10 : BitVec 32).extractLsb' 0 4 ≠ 1 := by decide +kernel

theorem witness_StepRunsDecodedOperation_queueEmpty :
    (busyAt 0x3F State.reset).host.queue = [] ∧
      decode (.phase (busyAt 0x3F State.reset).pc.phase) = .ok .finish := by decide +kernel
theorem witness_StepRunsDecodedOperation_tick :
    (queued [.tick] State.reset).host.queue = [.tick] ∧
      decode (.phase (queued [.tick] State.reset).pc.phase) = .ok .idle := by decide +kernel
theorem witness_StepRunsDecodedOperation_wait :
    let s := queued [.wait] (busyAt 0x10 State.reset)
    s.host.queue = [.wait] ∧ s.ctl.status.state = .busy ∧ decode (.phase s.pc.phase) = .ok .sig := by
  decide +kernel
theorem witness_StepRunsDecodedOperation_cmd :
    let s := queued [.write 0x00 0x21] State.reset
    s.host.queue = [.write 0x00 0x21] ∧ s.ctl.status.state ≠ .busy ∧
      decode (.cmd ((0x21 : BitVec 32).extractLsb' 0 8)) = .ok (.write 2) := by decide +kernel

theorem witness_WriteAccepted_default :
    let s := withFrames cell51 frame 2
    s.ctl.status.state ≠ .busy ∧ (∀ c : ColourNo, c ≠ 0 → palColour s.ctl c ≠ palColour s.ctl 0) ∧
      s.ctl.defaultFmt = 1 ∧ ¬(2 ≤ s.ctl.nframes.toNat ∧ s.ctl.cfgPng.pngAnim = false) := by
  decide +kernel
theorem witness_WriteAccepted_gif :
    let s := withFrames cell51 frame 1
    let t := { s with ctl := { s.ctl with cfgGif := ⟨false, false⟩ } }
    t.ctl.status.state ≠ .busy ∧ (∀ c : ColourNo, c ≠ 0 → palColour t.ctl c ≠ palColour t.ctl 0) ∧
      ¬(2 ≤ t.ctl.nframes.toNat ∧ t.ctl.cfgGif.gifAnim = false) := by decide +kernel
theorem witness_WriteUnsupportedFormat :
    State.reset.ctl.status.state ≠ .busy ∧
      ∀ c : ColourNo, c ≠ 0 → palColour State.reset.ctl c ≠ palColour State.reset.ctl 0 := by
  decide +kernel
theorem witness_WriteRefusedCases_busy :
    (busyAt 0x01 State.reset).ctl.status.state = .busy := by decide +kernel
theorem witness_WriteRefusedCases_sentinel :
    let c := regWrite State.reset.ctl (.pal 15) 0x00FE00
    c.status.state ≠ .busy ∧ palColour c 15 = palColour c 0 := by decide +kernel
/-- The default format is png; only png's flag is off. -/
theorem witness_WriteRefusedCases_animationDefault :
    let c := regWrite (withFrames cell51 frame 2).ctl .cfgPng 0
    c.status.state ≠ .busy ∧ (∀ n : ColourNo, n ≠ 0 → palColour c n ≠ palColour c 0) ∧
      c.defaultFmt = 1 ∧ 2 ≤ c.nframes.toNat ∧ c.cfgPng.pngAnim = false := by decide +kernel
theorem witness_WriteRefusedCases_animation :
    let c := regWrite (regWrite (withFrames cell51 frame 2).ctl .cfgPng 0) .cfgGif 0
    c.status.state ≠ .busy ∧ (∀ n : ColourNo, n ≠ 0 → palColour c n ≠ palColour c 0) ∧
      2 ≤ c.nframes.toNat ∧ c.cfgPng.pngAnim = false ∧ c.cfgGif.gifAnim = false := by decide +kernel

theorem witness_PixselReturnsByMode : (3 : ColourNo) ≠ 2 := by decide

theorem witness_ValidateChecksContract_none : State.reset.ctl.nframes.toNat = 0 := by decide +kernel
theorem witness_ValidateChecksContract_many :
    (withFrames cell51 frame 3).par.nfMax.toNat < (withFrames cell51 frame 3).ctl.nframes.toNat := by
  decide +kernel
/-- As many frames as descriptors, the crop filling the native image. -/
theorem witness_ValidateChecksContract_pass :
    let s := withFrames cell51 frame 2
    s.ctl.nframes.toNat = s.par.nfMax.toNat ∧
      ∀ i, i < s.ctl.nframes.toNat → FrameOk (frameDesc s.ctl i) := by
  unfold FrameOk; decide +kernel
theorem witness_ValidateChecksContract_zero :
    let s := withFrames cell51 frame 2
    let c := regWrite s.ctl (.fd 1 3) 0
    (∀ j, j < 1 → FrameOk (frameDesc c j)) ∧ (frameDesc c 1).scale = 0 := by
  unfold FrameOk; decide +kernel
theorem witness_ValidateChecksContract_crop :
    let s := withFrames cell51 frame 2
    let c := regWrite s.ctl (.fd 1 5) 1
    let f := frameDesc c 1
    (∀ j, j < 1 → FrameOk (frameDesc c j)) ∧ f.rows ≠ 0 ∧ f.cols ≠ 0 ∧ f.scale ≠ 0 ∧ f.cropW ≠ 0 ∧
      f.cropH ≠ 0 ∧ 8 * f.scale.toNat * f.cols.toNat + 1 = f.cropX.toNat + f.cropW.toNat := by
  unfold FrameOk; decide +kernel

theorem witness_SpansPartitionTheGrid : 0 < 3 ∧ 1 < 2 := by decide

theorem witness_RasterPaintsWhatTheFrameShows :
    FrameOk (frameDesc rasterState.ctl rasterState.pc.fi.toNat) ∧
      CellsReadable rasterState (frameDesc rasterState.ctl rasterState.pc.fi.toNat) ∧
      PaletteBuilt rasterState :=
  ⟨rasterState_frameOk, rasterState_readable, rasterState_built⟩
theorem witness_RasterBoxIsMinimal :
    FrameOk (frameDesc rasterState.ctl rasterState.pc.fi.toNat) ∧
      CellsReadable rasterState (frameDesc rasterState.ctl rasterState.pc.fi.toNat) ∧
      PaletteBuilt rasterState ∧ ∃ t, exec .raster rasterState = .next t :=
  ⟨rasterState_frameOk, rasterState_readable, rasterState_built, exists_next (by decide +kernel)⟩
theorem witness_RasterBoxIsMinimal_element :
    let f := frameDesc rasterState.ctl 0
    7 < f.cropH.toNat ∧ 0 < f.cropW.toNat := by decide +kernel
theorem witness_RasterAddsColoursInLoopOrder :
    FrameOk (frameDesc rasterState.ctl rasterState.pc.fi.toNat) ∧
      CellsReadable rasterState (frameDesc rasterState.ctl rasterState.pc.fi.toNat) ∧
      PaletteBuilt rasterState ∧ ∃ t, exec .raster rasterState = .next t :=
  witness_RasterBoxIsMinimal
theorem witness_NoFlashNoBox :
    (withFrames cellB frame 1).flg.useFlash = false ∧
      (withFrames cellB frame 1).ctl.status.fault = false ∧
      (nextOf (exec .raster (withFrames cellB frame 1))).map (·.ctl.status.fault) = some false := by
  decide +kernel
/-- The last byte of the record was never written. -/
theorem witness_RasterRefusesUnreadableCells :
    let s := withFrames (cellB.take 17) frame 1
    let f := frameDesc s.ctl s.pc.fi.toNat
    FrameOk f ∧ PaletteBuilt s ∧ ¬ CellsReadable s f := by
  refine ⟨by unfold FrameOk; decide +kernel, ⟨rfl, List.nodup_nil, nofun⟩, fun h => ?_⟩
  have h17 := (h 0 0 17 (by decide +kernel) (by decide +kernel) (by decide)).2
  revert h17
  decide +kernel

theorem witness_PaladdByCase_listed :
    (8 : ColourNo) ≠ 0 ∧ palColour (withSubs [] [0xCDC6CD] false).ctl 8 ∈ [(0xCDC6CD : Colour)] := by
  decide +kernel
theorem witness_PaladdByCase_new :
    let s := withSubs [] [0xCDC6CD] false
    (1 : ColourNo) ≠ 0 ∧ palColour s.ctl 1 ∉ s.pl.plist ∧ s.pl.plen ≠ 256 := by decide +kernel
theorem witness_PaladdByCase_full :
    let s := { State.reset with pl := ⟨[], 256, false⟩ }
    (1 : ColourNo) ≠ 0 ∧ palColour s.ctl 1 ∉ s.pl.plist ∧ s.pl.plen = 256 := by decide +kernel
theorem witness_IndexmapFindsThePosition :
    let s := withSubs [] [0xC5C600, 0x0000C5] true
    let p := if s.pl.hasTrans then palColour s.ctl 0 :: s.pl.plist else s.pl.plist
    p[2]? = some (palColour s.ctl 2) ∧ ∀ j, j < 2 → p[j]? ≠ some (palColour s.ctl 2) := by
  decide +kernel

theorem witness_AssembleOneFrame :
    let s := { withFrames cellB frame 1 with sets := [⟨[], [], true, 2, 2, 7, 7⟩] }
    let b := frameSet s 0
    s.ctl.nframes = 1 ∧ b.boxv = true ∧ b.minx.toNat ≤ b.maxx.toNat ∧ b.miny.toNat ≤ b.maxy.toNat ∧
      b.maxx.toNat < (frameDesc s.ctl 0).cropW.toNat ∧
      b.maxy.toNat < (frameDesc s.ctl 0).cropH.toNat := by decide +kernel
theorem witness_AssembleOneFrame_noBox :
    (withFrames cellB frame 1).ctl.nframes = 1 ∧ (frameSet (withFrames cellB frame 1) 0).boxv = false := by
  decide +kernel
theorem witness_AssembleSeveralFrames : 2 ≤ (withFrames cellB frame 2).ctl.nframes.toNat := by
  decide +kernel
theorem witness_IndicesStayInThePalette :
    let s := withSubs [] [0xC5C600, 0x0000C5] true
    (palette s.ctl s.pl).length ≤ 256 ∧ s.pl.hasTrans = true ∧ palColour s.ctl 2 ∈ s.pl.plist := by
  decide +kernel

theorem witness_ChunkFramesTypeAndData : ([0x00] : Bytes).length < 2 ^ 31 := by decide
theorem witness_ChunkReadsBack : ([1, 2, 3] : Bytes).length < 2 ^ 31 := by decide
theorem witness_ChunkReadsBack_long : 2 ^ 31 ≤ (List.replicate (2 ^ 31) (0 : Byte)).length :=
  Nat.le_of_eq List.length_replicate.symm
theorem witness_PackscanRows : (8 : BitVec 4) = 1 ∨ (8 : BitVec 4) = 2 ∨ (8 : BitVec 4) = 4 ∨
    (8 : BitVec 4) = 8 := by decide
theorem witness_PackedRowUnpacks : ∀ p ∈ [(1 : BitVec 8), 15, 7], p.toNat < 2 ^ 4 := by decide
theorem witness_DeflatePortAnswers :
    (State.resetWith params).par.port = .stored ∧ (9 : BitVec 4).toNat ≤ 9 ∧
      Config.storedLength ([0x00, 0x80] : Bytes).length + 4 < 2 ^ 31 := by decide +kernel
theorem witness_DeflatePortAnswers_external :
    State.reset.par.port = .external ∧ (0 : BitVec 4).toNat ≤ 9 ∧
      Config.Scanlines [0x00, 0x6C, 0x40, 0x00, 0x01, 0x02] :=
  ⟨by decide +kernel, by decide, [[0x6C, 0x40], [0x01, 0x02]], 2, by decide, by decide, by decide, rfl⟩
theorem witness_PngDataOperations :
    let s := { withSubs [dot 0, dot 1] [0, 1] false with png := ⟨0, 0, 1⟩ }
    s.ctl.cfgPng.compLevel.toNat ≤ 9 ∧
      Config.storedLength (packScan (subFrame s 1) s.png.depth.toNat).length + 4 < 2 ^ 31 := by
  decide +kernel

theorem witness_PngDataOperations_external :
    let s := { State.reset with png := ⟨0, 0, 4⟩ }
    s.ctl.cfgPng.compLevel.toNat ≤ 9 ∧ s.par.port = .external ∧ s.png.depth = 4 := by decide +kernel

/-- Sub-frame 1 of two, at its fcTL. -/
def fctlState : State :=
  let s := busyAt 0x15 (withSubs [dot 0, dot 1] [0, 1] false)
  { s with pc := ⟨0x15, 0, 1⟩, png := ⟨0, 1, 1⟩ }

theorem witness_SequenceNumbersKept : SequenceInv fctlState ∧ ∃ t, step fctlState = .next t := by
  refine ⟨?_, exists_next (by decide +kernel)⟩
  unfold SequenceInv beforeFirstEmit
  decide +kernel
theorem witness_PngSequenceWritesTheFile :
    let s := busyAt 0x10 (withSubs [dot 0, dot 1] [0, 1] false)
    s.host.queue = [] ∧ s.pc.phase = phaseSig ∧ s.png.seq = 0 := by decide +kernel

theorem witness_GifHeaderOperations_four :
    1 ≤ 1 ∧ ([1, 2, 3, 4] : List Colour).length ≤ 2 ^ (1 + 1) := by decide
theorem witness_GifHeaderOperations_five :
    1 ≤ 2 ∧ ([1, 2, 3, 4, 5] : List Colour).length ≤ 2 ^ (2 + 1) ∧
      2 ^ 2 < ([1, 2, 3, 4, 5] : List Colour).length := by decide
theorem witness_GifBlockOperations_fits :
    (subFrame (withSubs [{ dot 0 with x := 65535 }] [] false) 0).x.toNat ≤ 65535 := by decide +kernel
theorem witness_GifBlockOperations_beyond :
    65535 < (subFrame (withSubs [{ dot 0 with x := 65536 }] [] false) 0).x.toNat := by decide +kernel

theorem witness_LzwEmitsCodesThatFit :
    2 ≤ (8 : BitVec 4).toNat ∧ (8 : BitVec 4).toNat ≤ 8 ∧ ([255, 0] : List (BitVec 8)) ≠ [] ∧
      ∀ p ∈ ([255, 0] : List (BitVec 8)), p.toNat < 2 ^ (8 : BitVec 4).toNat := by decide
theorem witness_LzwFaultEntry : 12 ≤ (12 : BitVec 4).toNat := by decide
theorem witness_LzwDecodesBack :
    (∀ p ∈ ([1, 1, 1, 1] : List (BitVec 8)), p.toNat < 2 ^ 2) ∧ ∃ rc, lzw 2 [1, 1, 1, 1] = .ok rc :=
  ⟨by decide, exists_ok (by decide +kernel)⟩
theorem witness_BitpackUnpacks :
    ∀ c ∈ [(⟨4095, 12⟩ : Code), ⟨5, 3⟩], c.code.toNat < 2 ^ c.width.toNat := by decide
theorem witness_ImgdataAppendsImageData :
    paletteLen (withSubs [dot 1] [0, 1] true).ctl (withSubs [dot 1] [0, 1] true).pl ≤ 256 := by
  decide +kernel
theorem witness_GifSequenceWritesTheFile :
    let s := busyAt 0x20 (withSubs [dot 0, { dot 1 with x := 65535 }] [0, 1] false)
    s.host.queue = [] ∧ s.pc.phase = phaseGhdr ∧ paletteLen s.ctl s.pl ≤ 256 ∧
      ∀ k, k < s.nsub.toNat → (subFrame s k).x.toNat ≤ 65535 ∧ (subFrame s k).y.toNat ≤ 65535 := by
  decide +kernel

theorem witness_OperationsKeepInputs : ∃ t, exec .raster rasterState = .next t :=
  exists_next (by decide +kernel)
theorem witness_OutOnlyGrowsOrEmpties : ∃ t, exec .fctl fctlState = .next t :=
  exists_next (by decide +kernel)
theorem witness_MemoryFormKept :
    let s := queued [.memWrite 3 [9]] (withFrames cellB frame 1)
    MemoryInv s ∧ ∃ t, step s = .next t := by
  refine ⟨?_, exists_next (by decide +kernel)⟩
  unfold MemoryInv
  decide +kernel
theorem witness_OptionFieldsStayLegal :
    let s := queued [.write 0x104 3] (withFrames cellB frame 1)
    ConfigInv s ∧ ∃ t, step s = .next t := by
  refine ⟨?_, exists_next (by decide +kernel)⟩
  unfold ConfigInv
  decide +kernel

theorem rasterState_sequencer : SequencerInv rasterState := by
  refine ⟨⟨.raster, rfl⟩, ?_⟩
  unfold beforeFirstEmit
  decide +kernel

theorem rasterState_palette : PaletteInv rasterState :=
  ⟨rfl, by decide +kernel, by decide +kernel, fun _ => rasterState_built.2.2⟩

theorem witness_SequencerStaysLegal : SequencerInv rasterState ∧ ∃ t, step rasterState = .next t :=
  ⟨rasterState_sequencer, exists_next (by decide +kernel)⟩
theorem witness_FaultsAreUnreachable :
    SequencerInv rasterState ∧ PaletteInv rasterState ∧ ∃ t, step rasterState = .next t :=
  ⟨rasterState_sequencer, rasterState_palette, exists_next (by decide +kernel)⟩
theorem witness_WriteTerminates :
    SequencerInv rasterState ∧ rasterState.host.queue = [] ∧ rasterState.ctl.status.state = .busy :=
  ⟨rasterState_sequencer, by decide +kernel, by decide +kernel⟩

/-- Two blocks with the same inputs and different pasts. -/
theorem witness_WriteForgetsThePast :
    let s := withFrames cellB frame 1
    let t := { s with
      ctl := { s.ctl with err := ⟨3, 1⟩, status := ⟨.error, false⟩ }, nsub := 7, pc := ⟨0, 3, 2⟩ }
    (s.host.queue = [] ∧ t.host.queue = [] ∧ s.par = t.par ∧ s.mem = t.mem ∧
      t.ctl = { s.ctl with
        err := t.ctl.err, status := { t.ctl.status with fault := s.ctl.status.fault } }) ∧
      (∃ s', exec (.write 2) s = .next s') ∧ ∃ t', exec (.write 2) t = .next t' :=
  ⟨by decide +kernel, exists_next (by decide +kernel), exists_next (by decide +kernel)⟩

/-- The last field of the last descriptor; the other registers differ in the number only. -/
theorem witness_RegistersRead :
    let s := queued [.write 0x11B 0x1FFFF, .read 0x11B] (withFrames cellB frame 1)
    s.host.queue = [.write 0x11B 0x1FFFF, .read 0x11B] ∧ s.ctl.status.state ≠ .busy ∧
      s.ctl.fd.length = s.par.nfMax.toNat ∧ 1 < s.par.nfMax.toNat ∧ 0x11B = 0x100 + 16 * 1 + 11 := by
  decide +kernel
theorem witness_RegistersRead_options :
    ∀ n ∈ [0x03, 0x04, 0x05, 0x06],
      let s := queued [.write n 0xFFFFFFFF, .read n] (withFrames cellB frame 1)
      s.host.queue = [.write n 0xFFFFFFFF, .read n] ∧ s.ctl.status.state ≠ .busy ∧
        s.ctl.fd.length = s.par.nfMax.toNat := by decide +kernel
theorem witness_RegistersRead_palette :
    let s := queued [.write 0x1F 0, .read 0x1F] (withFrames cellB frame 1)
    s.host.queue = [.write 0x1F 0, .read 0x1F] ∧ s.ctl.status.state ≠ .busy ∧
      s.ctl.fd.length = s.par.nfMax.toNat ∧ 0x1F = 0x10 + 15 := by decide +kernel
/-- The numbers where R22's table ends and starts again, with two descriptors. -/
theorem witness_RegistersRead_reserved :
    (∀ n ∈ [0x07, 0x0F, 0x20, 0xFF, 0x10C, 0x11F, 0x120], reservedNumber 2 n) ∧
      ∀ n ∈ [0x00, 0x01, 0x02, 0x06, 0x10, 0x1F, 0x100, 0x10B, 0x110, 0x11B], ¬ reservedNumber 2 n := by
  unfold reservedNumber
  decide
theorem witness_RegistersRead_readOnly :
    ∀ n ∈ [0x00, 0x01, 0x02, 0x120],
      let s := queued [.read n] (withFrames cellB frame 1)
      s.host.queue = [.read n] ∧ s.ctl.status.state ≠ .busy ∧ s.par.nfMax = 2 := by decide +kernel
/-- The first and the last number of each range. -/
theorem witness_RegistersRead_state :
    ∀ n ∈ [0x03, 0x04, 0x05, 0x06, 0x10, 0x1F, 0x100, 0x10B, 0x110, 0x11B],
      let s := queued [.read n] (withFrames cellB frame 1)
      s.host.queue = [.read n] ∧ s.ctl.status.state ≠ .busy ∧ s.par.nfMax = 2 ∧
        s.ctl.fd[0]? = some frame ∧ s.ctl.fd[1]? = some frame := by decide +kernel
theorem witness_RegistersRead_ignored :
    ∀ n ∈ [0x01, 0x02, 0x120],
      let s := queued [.write n 0xFFFFFFFF] (withFrames cellB frame 1)
      s.host.queue = [.write n 0xFFFFFFFF] ∧ s.ctl.status.state ≠ .busy := by decide +kernel
theorem witness_RegistersAreIndependent :
    let s := queued [.write 0x105 0xFFFFFFFF] (withFrames cellB frame 1)
    s.host.queue = [.write 0x105 0xFFFFFFFF] ∧ s.ctl.status.state ≠ .busy ∧ 0x105 ≠ 0x00 ∧
      0x106 ≠ 0x105 := by decide +kernel
theorem witness_HostAccessAndBusy :
    (busyAt 0x01 State.reset).ctl.status.state = .busy ∧
      (queued [.write 0x06 1] State.reset).host.queue = [.write 0x06 1] ∧
      (queued [.memWrite 0 [1]] State.reset).host.queue = [.memWrite 0 [1]] ∧
      (queued [.readOut] State.reset).host.queue = [.readOut] ∧
      (queued [.read 0x01] State.reset).host.queue = [.read 0x01] := by decide +kernel
theorem witness_HostAccessAndBusy_done :
    let s := queued [.readOut] State.reset
    let t := { s with out := [1, 2], ctl := { s.ctl with status := ⟨.done, false⟩ } }
    t.host.queue = [.readOut] ∧ t.ctl.status.state ≠ .busy ∧ t.out = [1, 2] := by decide +kernel
/-- The last two bytes of cell memory. -/
theorem witness_HostMemoryWriteStores :
    let s := queued [.memWrite (2 ^ 32 - 2) [1, 2]] State.reset
    s.host.queue = [.memWrite (2 ^ 32 - 2) [1, 2]] ∧ s.ctl.status.state ≠ .busy ∧
      2 ^ 32 - 2 + ([1, 2] : Bytes).length = s.par.cellMemSize := by decide +kernel
theorem witness_ResetAtAnyMoment :
    (queued [.reset, .tick] (busyAt 0x26 State.reset)).host.queue = [.reset, .tick] := by
  decide +kernel

end Sys2Proof.Tests
end

section
/-! Host writes to cell memory (R12, R52): what a write of several bytes stores and what it leaves, and
the step that takes it. -/

namespace Sys2Proof.Machine

/-- A write of several bytes leaves every address outside its range alone (the frame of R12). -/
theorem memRead_memWriteBytes_outside (b : Bytes) (m : Memory) (a x : Nat)
    (hx : x < a ∨ a + b.length ≤ x) : memRead (memWriteBytes m a b) x = memRead m x := by
  induction b generalizing m a with
  | nil => rfl
  | cons v vs ih =>
    rw [List.length_cons] at hx
    calc memRead (memWriteBytes (memWrite m a v) (a + 1) vs) x
        = memRead (memWrite m a v) x := ih _ _ (by omega)
      _ = memRead m x := memRead_memWrite_other m a x v (by omega)

/-- A write of several bytes stores byte `i` at address `a + i`. The first byte survives the rest of
the write because the rest begins above it. -/
theorem memRead_memWriteBytes_inside (b : Bytes) (m : Memory) (a i : Nat) (hi : i < b.length) :
    memRead (memWriteBytes m a b) (a + i) = b[i]? := by
  induction b generalizing m a i with
  | nil => exact absurd hi (Nat.not_lt_zero i)
  | cons v vs ih =>
    cases i with
    | zero =>
      calc memRead (memWriteBytes (memWrite m a v) (a + 1) vs) a
          = memRead (memWrite m a v) a :=
            memRead_memWriteBytes_outside vs _ _ _ (.inl (Nat.lt_succ_self a))
        _ = some v := memRead_memWrite_same m a v
    | succ i =>
      have hrest := ih (memWrite m a v) (a + 1) i (Nat.lt_of_succ_lt_succ hi)
      rwa [Nat.add_right_comm] at hrest

/-- With a host memory write at the head of the queue, a step is that write. -/
theorem step_of_memWrite (s : State) (a : Nat) (b : Bytes) (q : List HostReq)
    (hq : s.host.queue = .memWrite a b :: q) : step s = hostMemWrite a b (withQueue q s) := by
  rw [step, stepOnce, hq]

/-- Neither refusal of a host memory write applies: not BUSY, and all bytes inside the memory. -/
theorem hostMemWrite_of_inside (a : Nat) (b : Bytes) (s : State) (hb : s.ctl.status.state ≠ .busy)
    (hin : a + b.length ≤ s.par.cellMemSize) :
    hostMemWrite a b s = .next { s with mem := memWriteBytes s.mem a b } := by
  have hidle : ¬ isBusy s = true := by simpa [isBusy] using hb
  have hfit : ¬ (b ≠ [] ∧ s.par.cellMemSize < a + b.length) := fun h => by omega
  rw [hostMemWrite, if_neg hidle, if_neg hfit]

/-- Settles O59: the step is the write, and its bytes and frame are those of `memWriteBytes`. -/
theorem hostMemoryWriteStores : Obligations.HostMemoryWriteStores := by
  intro s a b q hq hb hin
  refine ⟨{ withQueue q s with mem := memWriteBytes s.mem a b }, ?_, rfl, ?_, ?_⟩
  · rw [step_of_memWrite s a b q hq]
    exact hostMemWrite_of_inside a b (withQueue q s) hb hin
  · exact memRead_memWriteBytes_inside b s.mem a
  · exact memRead_memWriteBytes_outside b s.mem a

end Sys2Proof.Machine
end

section
/-! What an operation can do. Every operation that answers a next state has one of five effects, and each
claim about all operations is a case split over them. -/

namespace Sys2Proof.Machine

/-- The phases an operation can hand over to when it goes on (R116, R145, R180, R220, R250); `IDLE` and a
datapath function leave `PHASE`, here `p`, alone; `WRITE` and `FINISH` do not go on, they start and end. -/
def successors (i : Instr) (p : BitVec 6) : List (BitVec 6) :=
  match i with
  | .write _ | .finish => []
  | .validate | .raster => [phaseRaster, phaseAssemble]
  | .assemble => [phaseSig, phaseGhdr]
  | .sig => [phaseIhdr]
  | .ihdr => [phasePlte]
  | .plte => [phaseTrns, phaseActl, phaseIdat]
  | .trns => [phaseActl, phaseIdat]
  | .actl => [phaseFctl]
  | .fctl => [phaseIdat, phaseFdat]
  | .idat | .fdat => [phaseFctl, phaseIend]
  | .iend | .trailer => [phaseFinish]
  | .ghdr => [phaseLsd]
  | .lsd => [phaseGct]
  | .gct => [phaseAppext, phaseGce, phaseImgdesc, phaseTrailer]
  | .appext | .imgdata => [phaseGce, phaseImgdesc, phaseTrailer]
  | .gce => [phaseImgdesc]
  | .imgdesc => [phaseImgdata]
  | _ => [p]

/-- The operations of a `WRITE` that come before its first `Emit` (R250). -/
def isQuiet : Instr → Bool
  | .validate | .raster | .assemble => true
  | _ => false

/-- The operations that write the palette registers, `WRITE` aside: those that call `PALADD`. -/
def addsColours : Instr → Bool
  | .raster | .paladd _ => true
  | _ => false

/-- The operations that call `PALADD` or `LZW`, the two functions that can raise a fault (R263). -/
def mayFault : Instr → Bool
  | .raster | .paladd _ | .imgdata | .lzw _ _ => true
  | _ => false

/-- An operation that goes on: the inputs stay, `OUT` grows at its end, and `PHASE` moves as the order
of the operations says. -/
structure Works (i : Instr) (s t : State) : Prop where
  par : t.par = s.par
  ctl : t.ctl = s.ctl
  mem : t.mem = s.mem
  host : t.host = s.host
  out : s.out <+: t.out
  quiet : isQuiet i = true → t.out = s.out
  pl : addsColours i = false → t.pl = s.pl
  phase : t.pc.phase ∈ successors i s.pc.phase

/-- All that an operation can do when it answers a next state. -/
inductive Effect (i : Instr) (s t : State) : Prop where
  /-- It does its work and goes on. -/
  | works (h : Works i s t)
  /-- `FINISH` (R251). -/
  | done (hi : i = .finish) (ht : t = goto phaseIdle (setRunState .done s))
  /-- Error entry of `VALIDATE` (R264, R266). -/
  | error (hi : i = .validate) (code : BitVec 4) (frame : BitVec 8) (ht : t = raiseError code frame s)
  /-- Fault entry (R268). -/
  | fault (hi : mayFault i = true) (code : BitVec 4) (ht : t = raiseFault code s)
  /-- A `WRITE` with an unsupported format (R261). -/
  | unsupported (fmt : BitVec 2) (hi : i = .write fmt) (ht : t = raiseError eFormat 0 (acceptWrite s))
  /-- An accepted `WRITE` (R46, R247, R248). -/
  | accepted (fmt efmt : BitVec 2) (hi : i = .write fmt)
      (ht : t = goto phaseValidate { acceptWrite s with
        flg := { s.flg with efmt := efmt, useFlash := useFlashFor s.ctl efmt } })

/-- A datapath function that leaves its result in the latch and in the encoder's registers. -/
theorem Works.latches (i : Instr) (s : State) (png : PngRegs) (gif : GifRegs) (fout : FuncOut)
    (hphase : s.pc.phase ∈ successors i s.pc.phase) :
    Works i s { s with png := png, gif := gif, fout := fout } :=
  ⟨rfl, rfl, rfl, rfl, List.prefix_rfl, fun _ => rfl, fun _ => rfl, hphase⟩

/-- An operation that emits: `OUT`, the encoder's registers and the program counter change. -/
theorem Works.emits (i : Instr) (s : State) (b : Bytes) (png : PngRegs) (gif : GifRegs) (pc : Pc)
    (hquiet : isQuiet i = false) (hphase : pc.phase ∈ successors i s.pc.phase) :
    Works i s { s with out := s.out ++ b, png := png, gif := gif, pc := pc } :=
  ⟨rfl, rfl, rfl, rfl, List.prefix_append _ _, fun h => absurd h (by simp [hquiet]), fun _ => rfl, hphase⟩

/-- The next phase of the loop over the frames. -/
theorem rasterLoop_phase (i : Nat) (s : State) :
    (rasterLoop i s).pc.phase ∈ [phaseRaster, phaseAssemble] := by
  rw [rasterLoop_eq]; dsimp only; split_ifs <;> simp

/-- The next phase of the PNG loop over the sub-frames. -/
theorem pngLoop_phase (k : Nat) (s : State) : (pngLoop k s).pc.phase ∈ [phaseFctl, phaseIend] := by
  rw [pngLoop_eq]; dsimp only; split_ifs <;> simp

/-- The next phase of the GIF loop over the sub-frames. -/
theorem gifLoop_phase (k : Nat) (s : State) :
    (gifLoop k s).pc.phase ∈ [phaseGce, phaseImgdesc, phaseTrailer] := by
  rw [gifLoop_eq]; dsimp only; split_ifs <;> simp

/-- The next phase after `PLTE` and `tRNS`. -/
theorem afterTrns_phase (s : State) : (afterTrns s).pc.phase ∈ [phaseActl, phaseIdat] := by
  rw [afterTrns_eq]; dsimp only; split_ifs <;> simp

/-- A `WRITE` that completes has an unsupported format or is accepted (R247). -/
theorem execWrite_cases (fmt : BitVec 2) (s t : State) (h : execWrite fmt s = .next t) :
    (resolveFormat fmt s.ctl.defaultFmt = none ∧ t = raiseError eFormat 0 (acceptWrite s)) ∨
      ∃ efmt, resolveFormat fmt s.ctl.defaultFmt = some efmt ∧
        t = goto phaseValidate { acceptWrite s with
          flg := { s.flg with efmt := efmt, useFlash := useFlashFor s.ctl efmt } } := by
  unfold execWrite at h
  split_ifs at h
  split at h
  · cases h; exact .inl ⟨by assumption, rfl⟩
  · split_ifs at h
    cases h; exact .inr ⟨_, by assumption, rfl⟩

/-- `VALIDATE` raises the first error or goes on (R116). -/
theorem execValidate_effect (s t : State) (h : execValidate s = .next t) : Effect .validate s t := by
  unfold execValidate at h
  split at h
  · cases h; exact .error rfl _ _ rfl
  · cases h
    have hphase := rasterLoop_phase 0 s
    rw [rasterLoop_eq] at hphase ⊢
    exact .works ⟨rfl, rfl, rfl, rfl, List.prefix_rfl, fun _ => rfl, fun _ => rfl, hphase⟩

/-- `RASTER` goes on with new palette registers and a new frame set, or raises F_PALETTE (R120). -/
theorem execRaster_effect (s t : State) (h : execRaster s = .next t) : Effect .raster s t := by
  rcases (Flow.toOutcome_eq_next _ _ _).1 h with h | ⟨c, -, rfl⟩
  · obtain ⟨g, -, h⟩ := (Flow.andThen_eq_ok _ _ _).1 h
    cases h
    have hphase := rasterLoop_phase (s.pc.fi.toNat + 1)
      { s with pl := g.pl, sets := tableSet s.sets s.pc.fi.toNat g.set }
    rw [rasterLoop_eq] at hphase ⊢
    exact .works ⟨rfl, rfl, rfl, rfl, List.prefix_rfl, fun _ => rfl, nofun, hphase⟩
  · exact .fault rfl c rfl

/-- `ASSEMBLE` hands over to one of the encoders (R145, R250). -/
theorem execAssemble_effect (s t : State) (h : execAssemble s = .next t) : Effect .assemble s t := by
  cases h
  rw [toEncoder_eq]
  refine .works ⟨rfl, rfl, rfl, rfl, List.prefix_rfl, fun _ => rfl, fun _ => rfl, ?_⟩
  dsimp only; split_ifs <;> simp [successors]

/-- `IMGDATA` emits the image data, or raises F_LZW (R208). -/
theorem execImgdata_effect (s t : State) (h : execImgdata s = .next t) : Effect .imgdata s t := by
  rcases (Flow.toOutcome_eq_next _ _ _).1 h with h | ⟨c, -, rfl⟩
  · obtain ⟨bg, -, h⟩ := (Flow.andThen_eq_ok _ _ _).1 h
    cases h
    have hphase := gifLoop_phase (s.pc.k.toNat + 1) (emit bg.1 { s with gif := bg.2 })
    rw [gifLoop_eq] at hphase ⊢
    exact .works (.emits _ s bg.1 s.png bg.2 _ rfl hphase)
  · exact .fault rfl c rfl

/-- `PALADD` alone goes on with new palette registers, or raises F_PALETTE (R141). -/
theorem execPaladd_effect (c : ColourNo) (s t : State) (h : execPaladd c s = .next t) :
    Effect (.paladd c) s t := by
  rcases (Flow.toOutcome_eq_next _ _ _).1 h with h | ⟨c, -, rfl⟩
  · obtain ⟨p, -, h⟩ := (Flow.andThen_eq_ok _ _ _).1 h
    cases h
    exact .works ⟨rfl, rfl, rfl, rfl, List.prefix_rfl, fun _ => rfl, nofun, List.mem_singleton.2 rfl⟩
  · exact .fault rfl _ rfl

/-- `LZW` alone leaves its registers and codes, or raises F_LZW (R210). -/
theorem execLzw_effect (pixels : List (BitVec 8)) (m : BitVec 4) (s t : State)
    (h : execLzw pixels m s = .next t) : Effect (.lzw pixels m) s t := by
  rcases (Flow.toOutcome_eq_next _ _ _).1 h with h | ⟨c, -, rfl⟩
  · obtain ⟨rc, -, h⟩ := (Flow.andThen_eq_ok _ _ _).1 h
    cases h
    exact .works (.latches _ s _ _ _ (List.mem_singleton.2 rfl))
  · exact .fault rfl c rfl

/-- `PLTE` emits its chunk and hands over to the first record whose guard holds (R166, R180). -/
theorem execPlte_effect (s t : State) (h : execPlte s = .next t) : Effect .plte s t := by
  have hafter := afterTrns_phase (chunk typePlte (plteData (palette s.ctl s.pl)) s)
  unfold execPlte at h
  cases h
  split_ifs
  · exact .works (.emits _ s _ _ s.gif _ rfl (by simp [successors]))
  · rw [afterTrns_eq] at hafter ⊢
    exact .works (.emits _ s _ _ s.gif _ rfl (List.mem_cons_of_mem _ hafter))

/-- `GCT` emits its table and hands over to `APPEXT` or to the first sub-frame (R202, R220). -/
theorem execGct_effect (s t : State) (h : execGct s = .next t) : Effect .gct s t := by
  have hloop := gifLoop_phase 0 (emit (gctBytes (palette s.ctl s.pl)) s)
  unfold execGct at h
  cases h
  split_ifs
  · exact .works (.emits _ s _ s.png s.gif _ rfl (by simp [successors]))
  · rw [gifLoop_eq] at hloop ⊢
    exact .works (.emits _ s _ s.png s.gif _ rfl (List.mem_cons_of_mem _ hloop))

/-- `fcTL` emits its chunk and hands over to the data of its sub-frame (R169, R180). -/
theorem execFctl_effect (s t : State) (h : execFctl s = .next t) : Effect .fctl s t := by
  unfold execFctl at h
  cases h
  split_ifs <;> exact .works (.emits _ s _ _ s.gif _ rfl (by simp [successors]))

/-- `IMGDESC` emits its descriptor when it is not refused (R207). -/
theorem execImgdesc_effect (s t : State) (h : execImgdesc s = .next t) : Effect .imgdesc s t := by
  unfold execImgdesc at h
  split_ifs at h
  cases h
  exact .works (.emits _ s _ s.png s.gif _ rfl (List.mem_singleton.2 rfl))

/-- `tRNS`, `IDAT`, `fdAT` and `APPEXT` emit, and the next record is a choice of the order. -/
theorem exec_loop_effect (i : Instr) (hi : i = .trns ∨ i = .idat ∨ i = .fdat ∨ i = .appext) (s t : State)
    (h : exec i s = .next t) : Effect i s t := by
  rcases hi with rfl | rfl | rfl | rfl <;> cases h
  · have hphase := afterTrns_phase (chunk typeTrns [s.ctl.cfgPng.alpha] s)
    rw [afterTrns_eq] at hphase ⊢
    exact .works (.emits _ s _ _ s.gif _ rfl hphase)
  · have hphase := pngLoop_phase 1 (chunk typeIdat (compressed s 0) s)
    rw [pngLoop_eq] at hphase ⊢
    exact .works (.emits _ s _ _ s.gif _ rfl hphase)
  · have hphase := pngLoop_phase (s.pc.k.toNat + 1)
      (bumpSeq (chunk typeFdat (be32 s.png.seq ++ compressed s s.pc.k.toNat) s))
    rw [pngLoop_eq] at hphase ⊢
    exact .works (.emits _ s _ _ s.gif _ rfl hphase)
  · have hphase := gifLoop_phase 0 (emit appextBytes s)
    rw [gifLoop_eq] at hphase ⊢
    exact .works (.emits _ s _ s.png s.gif _ rfl hphase)

/-- Every operation that answers a next state has one of the effects. -/
theorem exec_effect (i : Instr) (s t : State) (h : exec i s = .next t) : Effect i s t := by
  cases i with
  | write fmt =>
    obtain ⟨-, ht⟩ | ⟨efmt, -, ht⟩ := execWrite_cases fmt s t h
    · exact .unsupported fmt rfl ht
    · exact .accepted fmt efmt rfl ht
  | validate => exact execValidate_effect s t h
  | raster => exact execRaster_effect s t h
  | assemble => exact execAssemble_effect s t h
  | plte => exact execPlte_effect s t h
  | fctl => exact execFctl_effect s t h
  | gct => exact execGct_effect s t h
  | imgdesc => exact execImgdesc_effect s t h
  | imgdata => exact execImgdata_effect s t h
  | paladd c => exact execPaladd_effect c s t h
  | lzw pixels m => exact execLzw_effect pixels m s t h
  | trns | idat | fdat | appext => exact exec_loop_effect _ (by simp) s t h
  | finish => cases h; exact .done rfl rfl
  | sig | ghdr | lsd | gce | trailer =>
    cases h; exact .works (.emits _ s _ s.png s.gif _ rfl (List.mem_singleton.2 rfl))
  | ihdr | actl | iend =>
    cases h; exact .works (.emits _ s _ _ s.gif _ rfl (List.mem_singleton.2 rfl))
  | chunk type data => cases h; exact .works (.emits _ s _ _ s.gif s.pc rfl (List.mem_singleton.2 rfl))
  | _ => cases h; exact .works (.latches _ s _ _ _ (List.mem_singleton.2 rfl))

/-- Settles O47: none of the effects reaches the inputs. -/
theorem operationsKeepInputs : Obligations.OperationsKeepInputs := by
  intro i s t h
  cases exec_effect i s t h with
  | works h => exact ⟨by simp [h.mem], h.mem, by rw [h.ctl], h.par, h.host⟩
  | done _ ht | error _ _ _ ht | fault _ _ ht | unsupported _ _ ht | accepted _ _ _ ht =>
    subst ht; exact ⟨fun _ => rfl, rfl, rfl, rfl, rfl⟩

/-- Settles O48: an operation that goes on appends; error entry, fault entry and a `WRITE` empty `OUT`. -/
theorem outOnlyGrowsOrEmpties : Obligations.OutOnlyGrowsOrEmpties := by
  intro i s t h
  cases exec_effect i s t h with
  | works h => exact .inr h.out
  | done _ ht => subst ht; exact .inr List.prefix_rfl
  | error _ _ _ ht | fault _ _ ht | unsupported _ _ ht | accepted _ _ _ ht => subst ht; exact .inl rfl

end Sys2Proof.Machine
end

section
/-! What a step can do, and the two invariants that follow from it without a look at the datapath: the
option fields stay legal (R241), the sequencer stays in a state of the rules (R250, R264, R266). -/

namespace Sys2Proof.Machine

/-- All that a step can do when it answers a next state; `hp` is the host's side of the port at the
operation or after the access. -/
inductive StepEffect (s t : State) : Prop where
  /-- The sequencer performs the operation that `PHASE` names. -/
  | operation (hp : HostPort) (i : Instr) (hi : decodePhase s.pc.phase = .ok i)
      (h : exec i { s with host := hp } = .next t)
  /-- A `CMD` write starts a `WRITE`. -/
  | write (hp : HostPort) (fmt : BitVec 2) (hb : s.ctl.status.state ≠ .busy)
      (h : exec (.write fmt) { s with host := hp } = .next t)
  /-- A write to another register. -/
  | register (hp : HostPort) (r : Reg) (v : BitVec 32) (hb : s.ctl.status.state ≠ .busy)
      (ht : t = { s with host := hp, ctl := regWrite s.ctl r v })
  /-- Only the host's side of the port changes: a read, a wait that is over, an ignored `CMD` write. -/
  | port (hp : HostPort) (ht : t = { s with host := hp })
  /-- A host write to cell memory. -/
  | memory (hp : HostPort) (a : Nat) (b : Bytes)
      (ht : t = { s with host := hp, mem := memWriteBytes s.mem a b })
  /-- The reset input. -/
  | reset (hp : HostPort) (ht : t = { State.resetWith s.par with host := hp })

/-- What a register write does to the block. -/
theorem hostWrite_effect (n : Nat) (v : BitVec 32) (q : List HostReq) (s t : State)
    (h : hostWrite n v (withQueue q s) = .next t) : StepEffect s t := by
  obtain ⟨hb, ⟨-, hcmd⟩ | ⟨r, -, -, ht⟩⟩ := hostWrite_cases n v _ t h
  · obtain ⟨-, hw⟩ | ⟨-, ht⟩ := cmdWrite_cases _ _ t hcmd
    · exact .write _ _ hb hw
    · exact .port _ ht
  · exact .register _ r v hb ht

/-- Every step that answers a next state has one of the effects. -/
theorem step_effect (s t : State) (h : step s = .next t) : StepEffect s t := by
  obtain ⟨-, h⟩ | ⟨q, -, h⟩ | ⟨q, -, -, h⟩ | ⟨q, -, -, ht⟩ | ⟨n, v, q, -, h⟩ | ⟨n, q, -, h⟩ |
    ⟨a, b, q, -, h⟩ | ⟨q, -, h⟩ | ⟨q, -, h⟩ := step_cases s t h
  case inl | inr.inr.inl =>
    obtain ⟨i, hi, h⟩ := seqStep_cases _ t h
    exact .operation s.host i hi h
  · obtain ⟨i, hi, h⟩ := seqStep_cases _ t h
    exact .operation _ i hi h
  · exact .port _ ht
  · exact hostWrite_effect n v q s t h
  · unfold hostRead at h
    split_ifs at h
    cases h; exact .port _ rfl
  · unfold hostMemWrite at h
    split_ifs at h
    cases h; exact .memory _ a b rfl
  · unfold hostReadOut at h
    split_ifs at h
    cases h; exact .port _ rfl
  · cases h; exact .reset _ rfl

/-! ## Legal option fields (R26, R27, R31, R241) -/

/-- Only the parameters and the control registers other than `STATUS` and `ERR` matter. -/
theorem ConfigInv.congr {s t : State} (h : ConfigInv s) (hpar : t.par = s.par)
    (hctl : t.ctl = { s.ctl with status := t.ctl.status, err := t.ctl.err }) : ConfigInv t := by
  unfold ConfigInv
  rw [hctl, hpar]
  exact h

/-- A field write stores no `MASK_MODE` of 3 (R31). -/
theorem fieldWrite_maskMode (f : FrameDesc) (j : Nat) (v : BitVec 32) (h : f.maskMode ≠ 3) :
    (fieldWrite f j v).maskMode ≠ 3 := by
  unfold fieldWrite
  split
  case h_5 => unfold legalMaskMode; dsimp only; split_ifs <;> simp_all
  all_goals exact h

/-- A descriptor of the table or beyond it has a legal `MASK_MODE`. -/
theorem frameDesc_maskMode (c : Control) (i : Nat) (h : ∀ f ∈ c.fd, f.maskMode ≠ 3) :
    (frameDesc c i).maskMode ≠ 3 := by
  rw [frameDesc, List.getD_eq_getElem?_getD]
  cases hf : c.fd[i]? with
  | none => decide
  | some f => exact h f (List.mem_of_getElem? hf)

/-- A register write replaces an invalid option by its default (R241). -/
theorem configInv_regWrite (s : State) (hp : HostPort) (r : Reg) (v : BitVec 32) (h : ConfigInv s) :
    ConfigInv { s with host := hp, ctl := regWrite s.ctl r v } := by
  obtain ⟨hfmt, hlevel, hlen, hmask⟩ := h
  cases r with
  | cfgFormat =>
    refine ⟨?_, hlevel, hlen, hmask⟩
    simp only [regWrite, legalDefaultFmt]
    split_ifs <;> simp
  | cfgPng =>
    refine ⟨hfmt, ?_, hlen, hmask⟩
    simp only [regWrite, legalCompLevel]
    split_ifs with hv
    · decide
    · exact Nat.not_lt.1 hv
  | fd i j =>
    refine ⟨hfmt, hlevel, by simpa [regWrite] using hlen, fun f hf => ?_⟩
    obtain hf | rfl := List.mem_or_eq_of_mem_set hf
    · exact hmask f hf
    · exact fieldWrite_maskMode _ _ _ (frameDesc_maskMode s.ctl i hmask)
  | _ => exact ⟨hfmt, hlevel, hlen, hmask⟩

/-- The reset state of every block is legal: R31 bounds the initial contents of `FD`. -/
theorem configInv_resetWith (p : Config.Params) : ConfigInv (State.resetWith p) := by
  refine ⟨.inl rfl, Nat.le_refl 9, by simp [State.resetWith, Control.reset], fun f hf => ?_⟩
  obtain ⟨i, -, rfl⟩ := List.mem_map.1 hf
  have hlegal := p.fdReset_legal
  rw [List.getD_eq_getElem?_getD]
  cases hi : p.fdReset[i]? with
  | none => decide
  | some f => simpa using (List.all_eq_true.1 hlegal) f (List.mem_of_getElem? hi)

/-- Settles O50: an operation keeps the options (O47), a register write and a reset store legal ones. -/
theorem optionFieldsStayLegal : Obligations.OptionFieldsStayLegal := by
  intro s t hs hstep
  cases step_effect s t hstep with
  | operation hp i _ h | write hp _ _ h =>
    obtain ⟨-, -, hctl, hpar, -⟩ := operationsKeepInputs _ _ _ h
    exact hs.congr hpar hctl
  | register hp r v _ ht => subst ht; exact configInv_regWrite s hp r v hs
  | port _ ht | memory _ _ _ ht => subst ht; exact hs
  | reset _ ht => subst ht; exact configInv_resetWith s.par

/-! ## The sequencer (R25, R98, R246, R250, R251, R264, R266) -/

/-- Only `PHASE`, `STATUS.STATE`, `ERR` and `OUT` matter. -/
theorem SequencerInv.congr {s t : State} (h : SequencerInv s) (hphase : t.pc.phase = s.pc.phase)
    (hstatus : t.ctl.status.state = s.ctl.status.state) (herr : t.ctl.err = s.ctl.err)
    (hout : t.out = s.out) : SequencerInv t := by
  unfold SequencerInv
  rw [hphase, hstatus, herr, hout]
  exact h

/-- A state with IDLE in `PHASE`, which is one of no `WRITE` in progress. -/
theorem SequencerInv.of_idle {t : State} (hphase : t.pc.phase = phaseIdle)
    (hbusy : t.ctl.status.state ≠ .busy) (hout : t.ctl.status.state ≠ .done → t.out = [])
    (herr : t.ctl.status.state ≠ .error → t.ctl.err = { code := 0, frame := 0 }) :
    SequencerInv t := by
  refine ⟨⟨.idle, by rw [hphase]; rfl⟩, by simp [hphase, hbusy], fun h => hout (by simp [h]),
    fun h => hout (by simp [h]), fun h => ?_, herr⟩
  rw [hphase] at h
  exact absurd h (by unfold beforeFirstEmit; decide)

/-- A state in the middle of a `WRITE`. -/
theorem SequencerInv.of_busy {t : State} (hphase : ∃ i, decodePhase t.pc.phase = .ok i)
    (hidle : t.pc.phase ≠ phaseIdle) (hbusy : t.ctl.status.state = .busy)
    (hout : beforeFirstEmit t.pc.phase → t.out = []) (herr : t.ctl.err = { code := 0, frame := 0 }) :
    SequencerInv t :=
  ⟨hphase, by simp [hidle, hbusy], by simp [hbusy], by simp [hbusy], hout, fun _ => herr⟩

/-- While a legal block is BUSY, `ERR` is 0. -/
theorem SequencerInv.err_of_busy {s : State} (h : SequencerInv s) (hbusy : s.ctl.status.state = .busy) :
    s.ctl.err = { code := 0, frame := 0 } := by
  obtain ⟨-, -, -, -, -, herr⟩ := h
  exact herr (by simp [hbusy])

/-- Before the first `Emit`, `OUT` is empty. -/
theorem SequencerInv.out_of_beforeFirstEmit {s : State} (h : SequencerInv s)
    (hphase : beforeFirstEmit s.pc.phase) : s.out = [] := by
  obtain ⟨-, -, -, -, hout, -⟩ := h
  exact hout hphase

/-- Outside IDLE a legal block is BUSY. -/
theorem SequencerInv.busy_of_phase {s : State} (h : SequencerInv s) (hphase : s.pc.phase ≠ phaseIdle) :
    s.ctl.status.state = .busy := by
  obtain ⟨-, hidle, -⟩ := h
  by_contra hbusy
  exact hphase (hidle.2 hbusy)

/-- An assigned code, as a test. -/
theorem exists_decodePhase_iff (p : BitVec 6) :
    (∃ i, decodePhase p = .ok i) ↔ (decodePhase p).toBool = true := by
  cases decodePhase p <;> simp [Except.toBool]

/-- An operation read from `PHASE` has that code (R98). -/
theorem encode_of_decodePhase (p : BitVec 6) (i : Instr) (hi : decodePhase p = .ok i) :
    encode i = some (.phase p) := by
  have hcodes : ∀ p : BitVec 6, ∀ i ∈ (decodePhase p).toOption, encode i = some (.phase p) := by decide
  exact hcodes p i (by simp [hi, Except.toOption])

/-- The operation that `PHASE` names is IDLE, or its successors are assigned codes other than IDLE, of
which those before the first `Emit` follow an operation that stands before it too and emits nothing. -/
theorem successors_of_decodePhase (p : BitVec 6) (i : Instr) (hi : decodePhase p = .ok i) :
    i = .idle ∨
      p ≠ phaseIdle ∧ ∀ p' ∈ successors i p, (∃ j, decodePhase p' = .ok j) ∧ p' ≠ phaseIdle ∧
        (beforeFirstEmit p' → beforeFirstEmit p ∧ isQuiet i = true) := by
  have henc := encode_of_decodePhase p i hi
  simp only [exists_decodePhase_iff, beforeFirstEmit]
  cases i with
  | idle => exact .inl rfl
  | validate | raster | assemble | sig | ihdr | plte | trns | actl | fctl | idat | fdat | iend | ghdr
  | lsd | gct | appext | gce | imgdesc | imgdata | trailer | finish =>
    cases henc; exact .inr (by decide)
  | _ => cases henc

/-- A `WRITE` that completes leaves a state of the rules, whatever it started from. -/
theorem sequencerInv_write (fmt : BitVec 2) (s t : State) (h : exec (.write fmt) s = .next t) :
    SequencerInv t := by
  obtain ⟨-, rfl⟩ | ⟨efmt, -, rfl⟩ := execWrite_cases fmt s t h
  · exact .of_idle rfl (by simp) (fun _ => rfl) (by simp)
  · exact .of_busy ⟨.validate, rfl⟩ (by simp [phaseValidate, phaseIdle]) rfl (fun _ => rfl) rfl

/-- The operation that `PHASE` names leaves a state of the rules. -/
theorem sequencerInv_operation (i : Instr) (s t : State) (hs : SequencerInv s)
    (hi : decodePhase s.pc.phase = .ok i) (h : exec i s = .next t) : SequencerInv t := by
  obtain rfl | ⟨hphase, hsucc⟩ := successors_of_decodePhase _ _ hi
  · cases h; exact hs
  have hbusy := hs.busy_of_phase hphase
  cases exec_effect i s t h with
  | works w =>
    obtain ⟨hassigned, hidle, hquiet⟩ := hsucc _ w.phase
    refine .of_busy hassigned hidle (by rw [w.ctl, hbusy]) (fun hbefore => ?_)
      (by rw [w.ctl, hs.err_of_busy hbusy])
    obtain ⟨hbefore', hq⟩ := hquiet hbefore
    rw [w.quiet hq, hs.out_of_beforeFirstEmit hbefore']
  | done _ ht => subst ht; exact .of_idle rfl (by simp) (by simp) (fun _ => hs.err_of_busy hbusy)
  | error _ _ _ ht | fault _ _ ht =>
    subst ht; exact .of_idle rfl (by simp) (fun _ => rfl) (by simp)
  | unsupported fmt hw | accepted fmt _ hw => subst hw; exact sequencerInv_write fmt s t h

/-- A register write leaves `STATUS` and `ERR` alone (R22). -/
theorem regWrite_readOnly (c : Control) (r : Reg) (v : BitVec 32) :
    (regWrite c r v).status = c.status ∧ (regWrite c r v).err = c.err := by
  cases r <;> exact ⟨rfl, rfl⟩

/-- The reset state is one of the rules (R290). -/
theorem sequencerInv_resetWith (p : Config.Params) (hp : HostPort) :
    SequencerInv { State.resetWith p with host := hp } :=
  .of_idle rfl nofun (fun _ => rfl) fun _ => rfl

/-- Settles O51: an operation hands over along the order of the rules, and the host's accesses other than
`CMD` and reset touch nothing the invariant speaks of. -/
theorem sequencerStaysLegal : Obligations.SequencerStaysLegal := by
  intro s t hs hstep
  cases step_effect s t hstep with
  | operation hp i hi h => exact sequencerInv_operation i { s with host := hp } t hs hi h
  | write hp fmt _ h => exact sequencerInv_write fmt _ t h
  | register hp r v _ ht =>
    obtain ⟨hstatus, herr⟩ := regWrite_readOnly s.ctl r v
    subst ht; exact hs.congr rfl (congrArg Status.state hstatus) herr rfl
  | port _ ht | memory _ _ _ ht => subst ht; exact hs
  | reset hp ht => subst ht; exact sequencerInv_resetWith s.par hp

end Sys2Proof.Machine
end

section
/-! No fault is reachable (R38, R263): `PALADD` finds at most 15 values to list, so F_PALETTE is never
raised; and a palette of at most 16 entries gives a minimum code size far below the 12 bits of F_LZW. -/

namespace Sys2Proof.Machine

/-! ## Computations that raise no fault -/

/-- A computation that raises no fault, and whose value, if it has one, is in `P`. -/
def Flow.Meets {α : Type} (P : α → Prop) : Flow α → Prop
  | .ok a => P a
  | .refuse _ => True
  | .fault _ => False

theorem Flow.Meets.andThen {α β : Type} {P : α → Prop} {Q : β → Prop} {x : Flow α} {f : α → Flow β}
    (hx : x.Meets P) (hf : ∀ a, P a → (f a).Meets Q) : (x.andThen f).Meets Q := by
  cases x with
  | ok a => exact hf a hx
  | refuse _ => trivial
  | fault _ => exact hx.elim

theorem Flow.Meets.loop {α β : Type} {P : α → Prop} {f : α → β → Flow α}
    (keep : ∀ a b, P a → (f a b).Meets P) (a : α) (ha : P a) (bs : List β) :
    (Flow.loop f a bs).Meets P := by
  induction bs generalizing a with
  | nil => exact ha
  | cons b bs ih => exact (keep a b ha).andThen ih

/-- An operation built on such a computation does not enter a fault. -/
theorem Flow.Meets.of_toOutcome {P : State → Prop} {x : Flow State} (hx : x.Meets P) {s t : State}
    (h : x.toOutcome s = .next t) : P t := by
  obtain rfl | ⟨c, rfl, -⟩ := (Flow.toOutcome_eq_next s t x).1 h
  · exact hx
  · exact hx.elim

/-! ## The palette registers (R38, R141) -/

/-- The palette registers during a `WRITE`: `PLEN` counts `PLIST`, which lists values of `PAL[1..15]`
without repeats. -/
def PaletteOk (ctl : Control) (p : PaletteRegs) : Prop :=
  p.plen.toNat = p.plist.length ∧ p.plist.Nodup ∧
    ∀ v ∈ p.plist, ∃ c : ColourNo, c ≠ 0 ∧ palColour ctl c = v

theorem paletteOk_nil (ctl : Control) (trans : Bool) :
    PaletteOk ctl { plist := [], plen := 0, hasTrans := trans } :=
  ⟨rfl, List.nodup_nil, nofun⟩

/-- There are 15 values to list. -/
theorem PaletteOk.length_le {ctl : Control} {p : PaletteRegs} (h : PaletteOk ctl p) :
    p.plist.length ≤ 15 := by
  obtain ⟨-, hnodup, hvalues⟩ := h
  have hsub : p.plist ⊆ (List.range 15).map fun i => palColour ctl (BitVec.ofNat 4 (i + 1)) := by
    intro v hv
    obtain ⟨c, hc, rfl⟩ := hvalues v hv
    refine List.mem_map.2 ⟨c.toNat - 1, ?_, ?_⟩
    · simp; omega
    · congr 1; bv_omega
  simpa using (hnodup.subperm hsub).length_le

/-- The invariant of the statement, while BUSY. -/
theorem PaletteInv.ok {s : State} (h : PaletteInv s) (hbusy : s.ctl.status.state = .busy) :
    PaletteOk s.ctl s.pl := by
  obtain ⟨hlen, hnodup, -, hvalues⟩ := h
  exact ⟨hlen, hnodup, hvalues hbusy⟩

theorem PaletteOk.inv {s : State} (h : PaletteOk s.ctl s.pl) : PaletteInv s := by
  have hle := h.length_le
  obtain ⟨hlen, hnodup, hvalues⟩ := h
  exact ⟨hlen, hnodup, hle, fun _ => hvalues⟩

/-- The palette registers stay, and so do the colours if the block is still BUSY. -/
theorem PaletteInv.congr {s t : State} (h : PaletteInv s) (hpl : t.pl = s.pl)
    (hbusy : t.ctl.status.state = .busy →
      s.ctl.status.state = .busy ∧ ∀ c, palColour t.ctl c = palColour s.ctl c) : PaletteInv t := by
  obtain ⟨hlen, hnodup, hle, hvalues⟩ := h
  unfold PaletteInv
  rw [hpl]
  refine ⟨hlen, hnodup, hle, fun hb => ?_⟩
  obtain ⟨hb', hpal⟩ := hbusy hb
  simpa only [hpal] using hvalues hb'

/-- The sentinel is one entry more (R143). -/
theorem PaletteInv.paletteLen_le {s : State} (h : PaletteInv s) : paletteLen s.ctl s.pl ≤ 16 := by
  obtain ⟨-, -, hle, -⟩ := h
  unfold paletteLen palette
  split_ifs
  · exact Nat.succ_le_succ hle
  · exact Nat.le_succ_of_le hle

/-- `PALADD` keeps the registers in order, and finds them short of 256 entries. -/
theorem palAdd_meets (ctl : Control) (p : PaletteRegs) (c : ColourNo) (h : PaletteOk ctl p) :
    (palAdd ctl p c).Meets (PaletteOk ctl) := by
  have hle := h.length_le
  obtain ⟨hlen, hnodup, hvalues⟩ := h
  obtain ⟨-, heq⟩ | ⟨-, -, heq⟩ | ⟨-, -, hfull, -⟩ | ⟨hc, hnew, -, heq⟩ := palAdd_cases ctl p c
  · rw [heq]; exact ⟨hlen, hnodup, hvalues⟩
  · rw [heq]; exact ⟨hlen, hnodup, hvalues⟩
  · rw [hfull] at hlen
    exact absurd hlen (by simp; omega)
  · rw [heq]
    refine ⟨?_, by simpa using hnodup.concat hnew, fun v hv => ?_⟩
    · rw [List.length_append, ← hlen]; simp; omega
    · obtain hv | hv := List.mem_append.1 hv
      · exact hvalues v hv
      · exact ⟨c, hc, (List.mem_singleton.1 hv).symm⟩

theorem rasterPixel_meets (ctl : Control) (f : FrameDesc) (useFlash : Bool) (r : Bytes) (cr cc : Nat)
    (g : RasterRegs) (p : Nat × Nat) (h : PaletteOk ctl g.pl) :
    (rasterPixel ctl f useFlash r cr cc g p).Meets fun g' => PaletteOk ctl g'.pl := by
  unfold rasterPixel
  dsimp only
  split_ifs
  · exact (palAdd_meets ctl g.pl _ h).andThen fun _ h1 =>
      (palAdd_meets ctl _ _ h1).andThen fun _ h2 => h2
  · exact (palAdd_meets ctl g.pl _ h).andThen fun _ h1 => h1
  · exact h

theorem rasterCell_meets (size : Nat) (mem : Memory) (ctl : Control) (f : FrameDesc) (useFlash : Bool)
    (g : RasterRegs) (c : Nat × Nat) (h : PaletteOk ctl g.pl) :
    (rasterCell size mem ctl f useFlash g c).Meets fun g' => PaletteOk ctl g'.pl := by
  unfold rasterCell
  split_ifs
  · split
    · trivial
    · exact Flow.Meets.loop (fun g p => rasterPixel_meets ctl f useFlash _ _ _ g p) g h _
  · exact h

/-- `RASTER` keeps the palette registers in order and raises no F_PALETTE. -/
theorem paletteOk_raster (s t : State) (hpl : PaletteOk s.ctl s.pl) (h : exec .raster s = .next t) :
    t.ctl = s.ctl ∧ PaletteOk s.ctl t.pl := by
  have hframe := Flow.Meets.loop
    (fun g c => rasterCell_meets s.par.cellMemSize s.mem s.ctl (frameDesc s.ctl s.pc.fi.toNat)
      s.flg.useFlash g c)
    { pl := s.pl, set := blankSet (frameDesc s.ctl s.pc.fi.toNat) (frameSet s s.pc.fi.toNat) } hpl
  refine ((hframe _).andThen fun g hg => ?_).of_toOutcome h
    (P := fun t => t.ctl = s.ctl ∧ PaletteOk s.ctl t.pl)
  rw [rasterLoop_eq]
  exact ⟨rfl, hg⟩

/-! ## The compressor (R210 to R213, R263) -/

theorem lzwOut_meets (r : LzwRegs) (c : BitVec 12) (hw : r.width.toNat ≤ 12) :
    (lzwOut r c).Meets fun _ => True := by
  rw [(lzwOut_eq_ok r c _).2 ⟨hw, rfl⟩]
  trivial

/-- A width of at most 11 bits grows to at most 12. -/
theorem width_succ_le (w : BitVec 4) (hw : w.toNat < 12) : (w + 1).toNat ≤ 12 := by
  bv_omega

theorem lzwAssign_meets (r : LzwRegs) (k : BitVec 8) (hw : r.width.toNat ≤ 12)
    (hnext : r.next.toNat < 4096) : (lzwAssign r k).Meets fun r' => r'.width.toNat ≤ 12 := by
  rw [lzwAssign, if_neg (Nat.not_le.2 hnext)]
  change (if _ then r.width + 1 else r.width).toNat ≤ 12
  split_ifs with hgrow
  · exact width_succ_le _ hgrow.2
  · exact hw

theorem lzwReset_width_le (m : Nat) (hm : m ≤ 11) (pfx : BitVec 12) :
    (lzwReset m pfx).width.toNat ≤ 12 := by
  simp [lzwReset]; omega

/-- The width stays within 12 bits over the step for one further pixel. -/
theorem lzwStep_meets (m : Nat) (hm : m ≤ 11) (r : LzwRegs) (k : BitVec 8) (hw : r.width.toNat ≤ 12) :
    (lzwStep m r k).Meets fun rc => rc.1.width.toNat ≤ 12 := by
  unfold lzwStep
  split
  · exact hw
  · refine (lzwOut_meets r _ hw).andThen fun _ _ => ?_
    split_ifs with hnext
    · exact (lzwAssign_meets r k hw hnext).andThen fun _ hr => hr
    · exact (lzwOut_meets r _ hw).andThen fun _ _ => lzwReset_width_le m hm _

theorem lzwFinish_meets (m : Nat) (r : LzwRegs) (hw : r.width.toNat ≤ 12) :
    (lzwFinish m r).Meets fun _ => True := by
  refine (lzwOut_meets r _ hw).andThen fun _ _ => (lzwOut_meets _ _ ?_).andThen fun _ _ => trivial
  split_ifs with hgrow
  · exact width_succ_le _ hgrow.2
  · exact hw

theorem lzwRun_meets (m : Nat) (hm : m ≤ 11) (ks : List (BitVec 8)) (r : LzwRegs)
    (hw : r.width.toNat ≤ 12) : (lzwRun m r ks).Meets fun _ => True := by
  induction ks generalizing r with
  | nil => exact lzwFinish_meets m r hw
  | cons k ks ih =>
    exact (lzwStep_meets m hm r k hw).andThen fun rc hrc => (ih rc.1 hrc).andThen fun _ _ => trivial

/-- `LZW` raises no F_LZW for a minimum code size of at most 11. -/
theorem lzw_meets (m : Nat) (hm : m ≤ 11) (pixels : List (BitVec 8)) :
    (lzw m pixels).Meets fun _ => True := by
  have hw := lzwReset_width_le m hm (lzwFirst pixels)
  rw [lzw, if_neg (by omega)]
  exact (lzwOut_meets _ _ hw).andThen fun _ _ =>
    (lzwRun_meets m hm _ _ hw).andThen fun _ _ => trivial

theorem growCode_le (n : Nat) (hn : n ≤ 16) (fuel m : Nat) (hm : m ≤ 4) : growCode n fuel m ≤ 4 := by
  induction fuel generalizing m with
  | zero => exact hm
  | succ fuel ih =>
    unfold growCode
    split_ifs with hlt
    · refine ih (m + 1) (Nat.succ_le_of_lt (lt_of_le_of_ne hm ?_))
      rintro rfl
      omega
    · exact hm

/-- A palette of at most 16 entries has codes of 4 bits to start with (R209). -/
theorem minCode_le (n : Nat) (hn : n ≤ 16) : minCode n ≤ 4 := growCode_le n hn n 2 (by decide)

/-- `IMGDATA` with at most 16 palette entries raises no F_LZW, and leaves `STATUS` alone. -/
theorem imgdata_ctl (s t : State) (hn : paletteLen s.ctl s.pl ≤ 16) (h : exec .imgdata s = .next t) :
    t.ctl = s.ctl := by
  have hmin := minCode_le _ hn
  have hdata : (imageData (paletteLen s.ctl s.pl) (subFrame s s.pc.k.toNat)).Meets fun _ => True :=
    (lzw_meets _ (by omega) _).andThen fun _ _ => trivial
  refine (hdata.andThen fun bg _ => ?_).of_toOutcome h (P := fun t => t.ctl = s.ctl)
  rw [gifLoop_eq]
  rfl

/-! ## The step -/

/-- Of the operations that `PHASE` names, `RASTER` alone adds colours, and only `RASTER` and `IMGDATA`
call a function that can raise a fault. -/
theorem addsColours_mayFault_of_decodePhase (p : BitVec 6) (i : Instr) (hi : decodePhase p = .ok i) :
    (addsColours i = true → i = .raster) ∧ (mayFault i = true → i = .raster ∨ i = .imgdata) := by
  have hcodes : ∀ p : BitVec 6, ∀ i ∈ (decodePhase p).toOption,
      (addsColours i = true → i = .raster) ∧ (mayFault i = true → i = .raster ∨ i = .imgdata) := by decide
  exact hcodes p i (by simp [hi, Except.toOption])

/-- A `WRITE` that completes has an empty palette and the `STATUS.FAULT` it found. -/
theorem paletteInv_write (fmt : BitVec 2) (s t : State) (h : exec (.write fmt) s = .next t) :
    PaletteInv t ∧ t.ctl.status.fault = s.ctl.status.fault := by
  obtain ⟨-, rfl⟩ | ⟨efmt, -, rfl⟩ := execWrite_cases fmt s t h <;>
    exact ⟨(paletteOk_nil _ false).inv, rfl⟩

/-- The operation that `PHASE` names keeps the palette invariant and raises no fault. -/
theorem paletteInv_operation (i : Instr) (s t : State) (hseq : SequencerInv s) (hs : PaletteInv s)
    (hi : decodePhase s.pc.phase = .ok i) (h : exec i s = .next t) :
    PaletteInv t ∧ t.ctl.status.fault = s.ctl.status.fault := by
  obtain rfl | ⟨hphase, -⟩ := successors_of_decodePhase _ _ hi
  · cases h; exact ⟨hs, rfl⟩
  have hbusy := hseq.busy_of_phase hphase
  obtain ⟨hadds, hfaults⟩ := addsColours_mayFault_of_decodePhase _ _ hi
  by_cases hraster : i = .raster
  · subst hraster
    obtain ⟨hctl, hpl⟩ := paletteOk_raster s t (hs.ok hbusy) h
    exact ⟨PaletteOk.inv (by rw [hctl]; exact hpl), by rw [hctl]⟩
  cases exec_effect i s t h with
  | works w =>
    have hpl := w.pl (Bool.eq_false_iff.2 fun ha => hraster (hadds ha))
    exact ⟨hs.congr hpl fun _ => ⟨hbusy, fun c => by rw [w.ctl]⟩, by rw [w.ctl]⟩
  | done _ ht | error _ _ _ ht => subst ht; exact ⟨hs.congr rfl (by simp), rfl⟩
  | fault hf c ht =>
    obtain rfl := (hfaults hf).resolve_left hraster
    have hctl := imgdata_ctl s t hs.paletteLen_le h
    exact absurd (congrArg (·.status.state) hctl) (by simp [ht, hbusy])
  | unsupported fmt hw | accepted fmt _ hw => subst hw; exact paletteInv_write fmt s t h

/-- Settles O52: the operations keep the palette registers in order and raise no fault; the host can
change a colour only while the block is not BUSY. -/
theorem faultsAreUnreachable : Obligations.FaultsAreUnreachable := by
  intro s t hseq hs hstep
  cases step_effect s t hstep with
  | operation hp i hi h =>
    obtain ⟨hinv, hfault⟩ := paletteInv_operation i { s with host := hp } t hseq hs hi h
    exact ⟨hinv, fun hf => hfault ▸ hf⟩
  | write hp fmt _ h =>
    obtain ⟨hinv, hfault⟩ := paletteInv_write fmt _ t h
    exact ⟨hinv, fun hf => hfault ▸ hf⟩
  | register hp r v hb ht =>
    obtain ⟨hstatus, -⟩ := regWrite_readOnly s.ctl r v
    subst ht
    exact ⟨hs.congr rfl fun hbusy => absurd (hstatus ▸ hbusy) hb, fun hf => hstatus ▸ hf⟩
  | port _ ht | memory _ _ _ ht => subst ht; exact ⟨hs, id⟩
  | reset _ ht => subst ht; exact ⟨(paletteOk_nil _ false).inv, nofun⟩

end Sys2Proof.Machine
end

section
/-! The step, one equation per kind of queue entry, and `WRITE`, one equation per case; from them the
statements about what a step runs, what a `WRITE` answers and what the host may do while BUSY. -/

namespace Sys2Proof.Machine

/-! ## The step by the head of the queue -/

theorem isBusy_eq_false {s : State} (hb : s.ctl.status.state ≠ .busy) : isBusy s = false := by
  simpa [isBusy] using hb

theorem isBusy_eq_true {s : State} (hb : s.ctl.status.state = .busy) : isBusy s = true := by
  simpa [isBusy] using hb

theorem step_of_empty (s : State) (hq : s.host.queue = []) : step s = seqStep s := by
  rw [step, stepOnce, hq]

theorem step_of_tick (s : State) (q : List HostReq) (hq : s.host.queue = .tick :: q) :
    step s = seqStep (withQueue q s) := by
  rw [step, stepOnce, hq]

theorem step_of_wait (s : State) (q : List HostReq) (hq : s.host.queue = .wait :: q)
    (hb : s.ctl.status.state = .busy) : step s = seqStep s := by
  rw [step, stepOnce, hq]
  exact if_pos (isBusy_eq_true hb)

/-- A host write to a register while BUSY (R296). -/
theorem step_of_write_busy (s : State) (reg : Nat) (v : BitVec 32) (q : List HostReq)
    (hq : s.host.queue = .write reg v :: q) (hb : s.ctl.status.state = .busy) :
    step s = .refused .hostWhileBusy := by
  rw [step, stepOnce, hq]
  exact if_pos (isBusy_eq_true hb)

/-- A host write to `CMD` while not BUSY (R23). -/
theorem step_of_write_cmd (s : State) (v : BitVec 32) (q : List HostReq)
    (hq : s.host.queue = .write 0x00 v :: q) (hb : s.ctl.status.state ≠ .busy) :
    step s = cmdWrite (v.extractLsb' 0 8) (withQueue q s) := by
  rw [step, stepOnce, hq]
  dsimp only
  rw [hostWrite, isBusy_eq_false (s := withQueue q s) hb]
  rfl

/-- A host write to another register while not BUSY (R22). -/
theorem step_of_write_register (s : State) (reg : Nat) (v : BitVec 32) (q : List HostReq)
    (hq : s.host.queue = .write reg v :: q) (hb : s.ctl.status.state ≠ .busy)
    (hcmd : regOf s.par.nfMax.toNat reg ≠ .cmd) :
    step s = .next { s with
      ctl := regWrite s.ctl (regOf s.par.nfMax.toNat reg) v, host := { s.host with queue := q } } := by
  rw [step, stepOnce, hq]
  dsimp only
  rw [hostWrite, isBusy_eq_false (s := withQueue q s) hb, withQueue_par]
  generalize regOf s.par.nfMax.toNat reg = r at hcmd
  cases r with
  | cmd => exact absurd rfl hcmd
  | _ => rfl

/-- A host read of a register that is not refused: any one while not BUSY, `STATUS` at any time (R22). -/
theorem step_of_read (s : State) (reg : Nat) (q : List HostReq) (hq : s.host.queue = .read reg :: q)
    (hb : s.ctl.status.state ≠ .busy ∨ regOf s.par.nfMax.toNat reg = .status) :
    step s = .next { s with host := { s.host with
      queue := q, data := regRead s.ctl (regOf s.par.nfMax.toNat reg) } } := by
  rw [step, stepOnce, hq]
  refine if_neg ?_
  rcases hb with hb | hreg
  · simp [isBusy_eq_false (s := withQueue q s) hb]
  · simp [hreg]

/-- A host write to cell memory while BUSY (R296). -/
theorem step_of_memWrite_busy (s : State) (a : Nat) (b : Bytes) (q : List HostReq)
    (hq : s.host.queue = .memWrite a b :: q) (hb : s.ctl.status.state = .busy) :
    step s = .refused .hostWhileBusy := by
  rw [step_of_memWrite s a b q hq]
  exact if_pos (isBusy_eq_true hb)

/-- A host read of `OUT` while BUSY (R296). -/
theorem step_of_readOut_busy (s : State) (q : List HostReq) (hq : s.host.queue = .readOut :: q)
    (hb : s.ctl.status.state = .busy) : step s = .refused .hostWhileBusy := by
  rw [step, stepOnce, hq]
  exact if_pos (isBusy_eq_true hb)

/-- A host read of `OUT` while not BUSY (R41). -/
theorem step_of_readOut (s : State) (q : List HostReq) (hq : s.host.queue = .readOut :: q)
    (hb : s.ctl.status.state ≠ .busy) :
    step s = .next { s with host := { s.host with queue := q, outCopy := s.out } } := by
  rw [step, stepOnce, hq]
  exact if_neg (by simp [isBusy_eq_false (s := withQueue q s) hb])

theorem seqStep_of_decodePhase (s : State) (i : Instr) (hi : decodePhase s.pc.phase = .ok i) :
    seqStep s = exec i s := by
  rw [seqStep, hi]

/-! ## What a step runs -/

/-- The low bits of a register write are the `CMD` byte, and its low bits `OP` (R23, R97). -/
theorem cmdOp_extractLsb' (v : BitVec 32) : cmdOp (v.extractLsb' 0 8) = v.extractLsb' 0 4 := by
  ext i hi
  simp [cmdOp, BitVec.getElem_extractLsb']

/-- Settles O3: such a byte decodes to no operation, so the `CMD` write does nothing. -/
theorem reservedCommandIgnored : Obligations.ReservedCommandIgnored := by
  intro s v q hq hb hop
  rw [step_of_write_cmd s v q hq hb, cmdWrite, decodeCmd, cmdOp_extractLsb', if_neg hop]

/-- Settles O4: in each case the step is the sequencer's or the `CMD` write, and each runs what the
decoder of its space answers. -/
theorem stepRunsDecodedOperation : Obligations.StepRunsDecodedOperation := by
  refine ⟨fun s i hq hi => ?_, fun s i q hq hi => ?_, fun s i q hq hb hi => ?_, fun s i v q hq hb hi => ?_⟩
  · rw [step_of_empty s hq, seqStep_of_decodePhase s i hi]
  · rw [step_of_tick s q hq, seqStep_of_decodePhase (withQueue q s) i hi]
  · rw [step_of_wait s q hq hb, seqStep_of_decodePhase s i hi]
  · have hi' : decodeCmd (v.extractLsb' 0 8) = .ok i := hi
    rw [step_of_write_cmd s v q hq hb, cmdWrite, hi']

/-- Settles O58: the refusals of R296, and the two reads that are answered. -/
theorem hostAccessAndBusy : Obligations.HostAccessAndBusy := by
  refine ⟨fun s q hb => ⟨fun reg v hq => step_of_write_busy s reg v q hq hb,
    fun a b hq => step_of_memWrite_busy s a b q hq hb, fun hq => step_of_readOut_busy s q hq hb,
    fun hq => ?_⟩, fun s q hq hb => step_of_readOut s q hq hb⟩
  have hvalue : regRead s.ctl .status = if s.ctl.status.fault then 5 else 1 := by
    rw [regRead, hb]
    cases s.ctl.status.fault <;> rfl
  rw [step_of_read s 0x01 q hq (.inr rfl), ← hvalue]
  rfl

/-! ## `WRITE` (R33, R46, R246 to R248) -/

/-- The sentinel condition is about the colours 1 to 15 (R33). -/
theorem sentinelOk_iff (c : Control) :
    sentinelOk c = true ↔ ∀ n : ColourNo, n ≠ 0 → palColour c n ≠ palColour c 0 := by
  simp only [sentinelOk, List.all_eq_true, List.mem_range, decide_eq_true_eq]
  constructor
  · intro h n hn
    have hpred : BitVec.ofNat 4 (n.toNat - 1 + 1) = n := by bv_omega
    exact hpred ▸ (h (n.toNat - 1) (by bv_omega)).symm
  · intro h i hi
    exact (h _ (by bv_omega)).symm

/-- The operands that name a format, and the format each names (R247). -/
theorem resolveFormat_of_named (fmt dflt efmt : BitVec 2)
    (h : fmt = 0 ∧ efmt = dflt ∨ fmt = 1 ∧ efmt = 1 ∨ fmt = 2 ∧ efmt = 2) :
    resolveFormat fmt dflt = some efmt := by
  rcases h with ⟨rfl, rfl⟩ | ⟨rfl, rfl⟩ | ⟨rfl, rfl⟩ <;> rfl

theorem execWrite_of_busy (fmt : BitVec 2) (s : State) (hb : s.ctl.status.state = .busy) :
    execWrite fmt s = .refused .hostWhileBusy := by
  rw [execWrite, if_pos hb]

theorem execWrite_of_collision (fmt : BitVec 2) (s : State) (hb : s.ctl.status.state ≠ .busy)
    (hs : sentinelOk s.ctl = false) : execWrite fmt s = .refused .sentinelCollision := by
  rw [execWrite, if_neg hb, if_pos hs]

/-- With a format the animation flag decides between refusal U5 and acceptance. -/
theorem execWrite_of_format (fmt efmt : BitVec 2) (s : State) (hb : s.ctl.status.state ≠ .busy)
    (hs : sentinelOk s.ctl = true) (hf : resolveFormat fmt s.ctl.defaultFmt = some efmt) :
    execWrite fmt s =
      if animationMissing s.ctl efmt then .refused .animationDisabled
      else .next (goto phaseValidate { acceptWrite s with
        flg := { s.flg with efmt := efmt, useFlash := useFlashFor s.ctl efmt } }) := by
  rw [execWrite, if_neg hb, if_neg (by simp [hs]), hf]

/-- The case U5: several frames and the animation flag 0. -/
theorem animationMissing_iff (c : Control) (efmt : BitVec 2) :
    animationMissing c efmt = true ↔
      2 ≤ c.nframes.toNat ∧ (if efmt = 1 then c.cfgPng.pngAnim else c.cfgGif.gifAnim) = false := by
  simp [animationMissing, animFlag]

/-- Settles O5: none of the refusals applies, and the state is the one that R46 initialises. -/
theorem writeAccepted : Obligations.WriteAccepted := by
  intro fmt efmt s hb hsentinel hfmt hanim
  have hf := resolveFormat_of_named fmt s.ctl.defaultFmt efmt hfmt
  refine ⟨_, (execWrite_of_format fmt efmt s hb ((sentinelOk_iff s.ctl).2 hsentinel) hf).trans
    (if_neg fun h => hanim ((animationMissing_iff s.ctl efmt).1 h)), ?_⟩
  exact ⟨rfl, rfl, fun _ => rfl, rfl, rfl, rfl, rfl, rfl, rfl, rfl, fun _ => rfl, rfl, rfl, rfl, rfl⟩

/-- Settles O7: each refusal by the equation of its case. -/
theorem writeRefusedCases : Obligations.WriteRefusedCases := by
  refine ⟨execWrite_of_busy, fun fmt s c hb hc heq => ?_, fun fmt efmt s hb hsentinel hfmt hn hanim => ?_⟩
  · refine execWrite_of_collision fmt s hb (Bool.eq_false_iff.2 fun hs => ?_)
    exact (sentinelOk_iff s.ctl).1 hs c hc heq
  · have hf := resolveFormat_of_named fmt s.ctl.defaultFmt efmt hfmt
    exact (execWrite_of_format fmt efmt s hb ((sentinelOk_iff s.ctl).2 hsentinel) hf).trans
      (if_pos ((animationMissing_iff s.ctl efmt).2 ⟨hn, hanim⟩))

/-! ## Reset (R290, R291) -/

/-- In IDLE the sequence number is free. -/
theorem sequenceInv_of_idle (s : State) (hphase : s.pc.phase = phaseIdle) : SequenceInv s := by
  unfold SequenceInv beforeFirstEmit
  rw [hphase]
  simp [phaseIdle, phaseValidate, phaseRaster, phaseAssemble, phaseSig, phaseGhdr, phaseIhdr, phasePlte,
    phaseTrns, phaseActl, phaseFctl, phaseIdat, phaseFdat, phaseIend]

/-- Settles O53: each invariant holds of the reset state of every block. -/
theorem resetMeetsTheInvariants : Obligations.ResetMeetsTheInvariants :=
  ⟨⟨memWf_reset _, nofun⟩, configInv_resetWith _, sequencerInv_resetWith _ _, (paletteOk_nil _ false).inv,
    sequenceInv_of_idle _ rfl⟩

end Sys2Proof.Machine
end

section
/-! The control registers (R22 to R32): which register a number names, what each register reads of the
state, what a write of it reads back, and that no other register reads differently afterwards. -/

namespace Sys2Proof.Machine

/-! ## Register numbers (R22) -/

/-- The number of a register; a reserved one has none of its own. -/
def regNumber : Reg → Nat
  | .cmd | .reserved => 0x00
  | .status => 0x01
  | .err => 0x02
  | .cfgFormat => 0x03
  | .cfgPng => 0x04
  | .cfgGif => 0x05
  | .nframes => 0x06
  | .pal c => 0x10 + c.toNat
  | .fd i j => 0x100 + 16 * i + j

theorem regOf_pal (nf c : Nat) (hc : c < 16) : regOf nf (0x10 + c) = .pal (BitVec.ofNat 4 c) := by
  unfold regOf
  rw [if_neg (by omega), if_neg (by omega), if_neg (by omega), if_neg (by omega), if_neg (by omega),
    if_neg (by omega), if_neg (by omega), if_pos (by omega), Nat.add_sub_cancel_left]

theorem regOf_fd (nf i j : Nat) (hi : i < nf) (hj : j < 12) :
    regOf nf (0x100 + 16 * i + j) = .fd i j := by
  have hdiv : (0x100 + 16 * i + j - 0x100) / 16 = i := by omega
  have hmod : (0x100 + 16 * i + j - 0x100) % 16 = j := by omega
  unfold regOf
  rw [hdiv, hmod, if_neg (by omega), if_neg (by omega), if_neg (by omega), if_neg (by omega),
    if_neg (by omega), if_neg (by omega), if_neg (by omega), if_neg (by omega), if_pos (by omega)]

theorem regOf_reserved (nf n : Nat) (h : reservedNumber nf n) : regOf nf n = .reserved := by
  unfold reservedNumber at h
  unfold regOf
  rw [if_neg (by omega), if_neg (by omega), if_neg (by omega), if_neg (by omega), if_neg (by omega),
    if_neg (by omega), if_neg (by omega), if_neg (by omega), if_neg (by omega)]

/-- Two numbers name the same register only if it is a reserved one: the number is found again. -/
theorem regNumber_regOf (nf n : Nat) (h : regOf nf n ≠ .reserved) : regNumber (regOf nf n) = n := by
  by_cases hoption : n < 0x07
  · interval_cases n <;> rfl
  by_cases hpal : 0x10 ≤ n ∧ n < 0x20
  · obtain ⟨c, rfl⟩ := Nat.exists_eq_add_of_le hpal.1
    have hc : c < 16 := by omega
    rw [regOf_pal nf c hc, regNumber, BitVec.toNat_ofNat, Nat.mod_eq_of_lt hc]
  by_cases hfd : 0x100 ≤ n ∧ (n - 0x100) / 16 < nf ∧ n % 16 < 12
  · obtain ⟨hlo, hi, hj⟩ := hfd
    have hn : n = 0x100 + 16 * ((n - 0x100) / 16) + n % 16 := by omega
    rw [hn, regOf_fd nf _ _ hi hj]
    rfl
  · exact absurd (regOf_reserved nf n (by unfold reservedNumber; omega)) h

/-! ## What a register reads of the state -/

/-- A field above another is worth its own value shifted past it. -/
theorem toNat_append_eq {m n : Nat} (x : BitVec m) (y : BitVec n) :
    (x ++ y).toNat = 2 ^ n * x.toNat + y.toNat := by
  rw [BitVec.toNat_append, ← Nat.shiftLeft_add_eq_or_of_lt y.isLt, Nat.shiftLeft_eq, Nat.mul_comm]

theorem toNat_bit (b : Bool) : (bit b).toNat = b.toNat := by
  cases b <;> rfl

theorem regRead_status (c : Control) :
    regRead c .status =
      BitVec.ofNat 32 ((runStateCode c.status.state).toNat + 4 * c.status.fault.toNat) := by
  unfold regRead
  cases c.status.state <;> cases c.status.fault <;> rfl

theorem regRead_err (c : Control) :
    regRead c .err = BitVec.ofNat 32 (c.err.code.toNat + 256 * c.err.frame.toNat) := by
  rw [regRead, ← BitVec.ofNat_toNat, toNat_append_eq, toNat_append_eq]
  congr 1
  simp; omega

theorem regRead_cfgPng (c : Control) :
    regRead c .cfgPng =
      BitVec.ofNat 32 (c.cfgPng.compLevel.toNat + 16 * c.cfgPng.pngAnim.toNat +
        256 * c.cfgPng.alpha.toNat) := by
  rw [regRead, ← BitVec.ofNat_toNat, toNat_append_eq, toNat_append_eq, toNat_append_eq, toNat_bit]
  congr 1
  simp; omega

theorem regRead_cfgGif (c : Control) :
    regRead c .cfgGif = BitVec.ofNat 32 (c.cfgGif.gifAnim.toNat + 2 * c.cfgGif.gifTrans.toNat) := by
  rw [regRead, ← BitVec.ofNat_toNat, toNat_append_eq, toNat_bit, toNat_bit, Nat.add_comm, pow_one]

theorem palColour_ofNat (ctl : Control) (c : Nat) (hc : c < 16) :
    palColour ctl (BitVec.ofNat 4 c) = ctl.pal[c] := by
  have hval : (BitVec.ofNat 4 c).toNat = c := by simpa using hc
  simp only [palColour, Vector.get_eq_getElem, hval]

/-- The twelve fields of a descriptor in the order of their numbers (R30). -/
theorem fieldRead_eq (f : FrameDesc) (j : Nat) (hj : j < 12) :
    fieldRead f j =
      BitVec.ofNat 32 ([f.cellBase.toNat, f.rows.toNat, f.cols.toNat, f.scale.toNat, f.maskMode.toNat,
        f.cropX.toNat, f.cropY.toNat, f.cropW.toNat, f.cropH.toNat, f.delay.toNat,
        f.offX.toNat, f.offY.toNat].getD j 0) := by
  interval_cases j <;> simp [fieldRead]

/-! ## What a write reads back -/

/-- A write to a register, then a read of it, while the block is not BUSY. -/
theorem steps_write_read (s : State) (reg : Nat) (v : BitVec 32) (q : List HostReq)
    (hq : s.host.queue = .write reg v :: .read reg :: q) (hb : s.ctl.status.state ≠ .busy)
    (r : Reg) (hr : regOf s.par.nfMax.toNat reg = r) (hcmd : r ≠ .cmd) (x : Nat)
    (hx : regRead (regWrite s.ctl r v) r = BitVec.ofNat 32 x) :
    ∃ t, steps 2 s = .next t ∧ t.host.data = BitVec.ofNat 32 x ∧ t.host.queue = q := by
  obtain ⟨hstatus, -⟩ := regWrite_readOnly s.ctl r v
  have hwrite := step_of_write_register s reg v _ hq hb (by rwa [hr])
  have hread := step_of_read
    { s with ctl := regWrite s.ctl r v, host := { s.host with queue := .read reg :: q } } reg q rfl
    (.inl (by rw [hstatus]; exact hb))
  rw [hr] at hwrite hread
  refine ⟨{ s with
    ctl := regWrite s.ctl r v
    host := { s.host with queue := q, data := regRead (regWrite s.ctl r v) r } }, ?_, hx, rfl⟩
  rw [steps, hwrite]
  dsimp only
  rw [steps, hread]
  rfl

theorem regRead_regWrite_cfgFormat (c : Control) (v : BitVec 32) :
    regRead (regWrite c .cfgFormat v) .cfgFormat =
      BitVec.ofNat 32 (if v.toNat % 4 = 2 then 2 else 1) := by
  have hfmt : v.extractLsb' 0 2 = 2 ↔ v.toNat % 4 = 2 := by
    rw [← BitVec.toNat_inj]
    simp [BitVec.extractLsb'_toNat]
  simp only [regRead, regWrite, legalDefaultFmt, hfmt]
  split_ifs <;> rfl

theorem regRead_regWrite_cfgPng (c : Control) (v : BitVec 32) :
    regRead (regWrite c .cfgPng v) .cfgPng =
      BitVec.ofNat 32 ((if 9 < v.toNat % 16 then 9 else v.toNat % 16) + 16 * (v.toNat / 16 % 2) +
        256 * (v.toNat / 256 % 256)) := by
  have hlevel : (legalCompLevel (v.extractLsb' 0 4)).toNat =
      if 9 < v.toNat % 16 then 9 else v.toNat % 16 := by
    unfold legalCompLevel
    rw [BitVec.extractLsb'_toNat, apply_ite BitVec.toNat, BitVec.extractLsb'_toNat]
    rfl
  have hanim : (v.getLsbD 4).toNat = v.toNat / 16 % 2 := Nat.toNat_testBit v.toNat 4
  have halpha : (v.extractLsb' 8 8).toNat = v.toNat / 256 % 256 := by
    rw [BitVec.extractLsb'_toNat, Nat.shiftRight_eq_div_pow]
  rw [regRead_cfgPng, regWrite, hlevel, hanim, halpha]

theorem regRead_regWrite_cfgGif (c : Control) (v : BitVec 32) :
    regRead (regWrite c .cfgGif v) .cfgGif = BitVec.ofNat 32 (v.toNat % 4) := by
  have hanim : (v.getLsbD 0).toNat = v.toNat / 2 ^ 0 % 2 := Nat.toNat_testBit v.toNat 0
  have htrans : (v.getLsbD 1).toNat = v.toNat / 2 ^ 1 % 2 := Nat.toNat_testBit v.toNat 1
  rw [regRead_cfgGif, regWrite, hanim, htrans]
  congr 1
  omega

theorem regRead_regWrite_nframes (c : Control) (v : BitVec 32) :
    regRead (regWrite c .nframes v) .nframes = BitVec.ofNat 32 (v.toNat % 256) := by
  rw [regRead, regWrite, ← BitVec.ofNat_toNat, BitVec.extractLsb'_toNat]
  rfl

theorem palColour_regWrite_pal (c : Control) (n m : ColourNo) (v : BitVec 32) :
    palColour (regWrite c (.pal n) v) m = if n = m then v.extractLsb' 0 24 else palColour c m := by
  simp only [palColour, regWrite, Vector.get_eq_getElem, Vector.getElem_set, BitVec.toNat_inj]

theorem regRead_regWrite_pal (c : Control) (n : ColourNo) (v : BitVec 32) :
    regRead (regWrite c (.pal n) v) (.pal n) = BitVec.ofNat 32 (v.toNat % 2 ^ 24) := by
  rw [regRead, palColour_regWrite_pal, if_pos rfl, ← BitVec.ofNat_toNat, BitVec.extractLsb'_toNat]
  rfl

/-- A value cut to a field's width. -/
theorem setWidth_setWidth_eq_ofNat (v : BitVec 32) (w : Nat) :
    (v.setWidth w).setWidth 32 = BitVec.ofNat 32 (v.toNat % 2 ^ w) := by
  rw [← BitVec.ofNat_toNat, BitVec.toNat_setWidth]

theorem legalMaskMode_setWidth (v : BitVec 32) :
    (legalMaskMode (v.setWidth 2)).setWidth 32 =
      BitVec.ofNat 32 (if v.toNat % 4 = 3 then 0 else v.toNat % 4) := by
  have hmode : v.setWidth 2 = 3 ↔ v.toNat % 4 = 3 := by
    rw [← BitVec.toNat_inj]
    simp
  unfold legalMaskMode
  simp only [hmode]
  split_ifs
  · rfl
  · exact setWidth_setWidth_eq_ofNat v 2

/-- A field reads back what was written, cut to its width; `MASK_MODE` 3 reads 0 (R30, R31). -/
theorem fieldRead_fieldWrite_same (f : FrameDesc) (j : Nat) (v : BitVec 32) (hj : j < 12) :
    fieldRead (fieldWrite f j v) j =
      BitVec.ofNat 32
        (if j = 0 then v.toNat
          else if j ≤ 3 then v.toNat % 2 ^ 8
          else if j = 4 then (if v.toNat % 4 = 3 then 0 else v.toNat % 4)
          else v.toNat % 2 ^ 16) := by
  have hwidth := setWidth_setWidth_eq_ofNat v
  obtain rfl | ⟨hlo, hhi⟩ | rfl | hlo : j = 0 ∨ (1 ≤ j ∧ j ≤ 3) ∨ j = 4 ∨ 5 ≤ j := by omega
  · exact (BitVec.ofNat_toNat 32 v).symm
  · interval_cases j <;> exact hwidth 8
  · exact legalMaskMode_setWidth v
  · interval_cases j <;> exact hwidth 16

/-- The other fields of the descriptor read as before. -/
theorem fieldRead_fieldWrite_other (f : FrameDesc) (j k : Nat) (v : BitVec 32) (hk : k ≠ j) :
    fieldRead (fieldWrite f j v) k = fieldRead f k := by
  unfold fieldWrite
  split <;> unfold fieldRead <;> split <;> simp_all

/-- A write to a descriptor of the table changes that descriptor only. -/
theorem frameDesc_regWrite_fd (c : Control) (i j k : Nat) (v : BitVec 32) :
    frameDesc (regWrite c (.fd i j) v) k =
      if i = k ∧ k < c.fd.length then fieldWrite (frameDesc c k) j v else frameDesc c k := by
  simp only [frameDesc, regWrite, List.getD_eq_getElem?_getD, List.getElem?_set]
  split_ifs <;> simp_all

/-- A field of a descriptor of the table reads back what was written to it. -/
theorem regRead_regWrite_fd (c : Control) (i j : Nat) (v : BitVec 32) (hi : i < c.fd.length) :
    regRead (regWrite c (.fd i j) v) (.fd i j) = fieldRead (fieldWrite (frameDesc c i) j v) j := by
  rw [regRead, frameDesc_regWrite_fd, if_pos ⟨rfl, hi⟩]

/-! ## What a write leaves alone -/

/-- A register write changes what that register reads and no other (R22). -/
theorem regRead_regWrite_other (c : Control) (r r' : Reg) (v : BitVec 32) (h : r' ≠ r) :
    regRead (regWrite c r v) r' = regRead c r' := by
  cases r with
  | cmd | status | err | reserved => rfl
  | cfgFormat => cases r' with
    | cfgFormat => exact absurd rfl h
    | _ => rfl
  | cfgPng => cases r' with
    | cfgPng => exact absurd rfl h
    | _ => rfl
  | cfgGif => cases r' with
    | cfgGif => exact absurd rfl h
    | _ => rfl
  | nframes => cases r' with
    | nframes => exact absurd rfl h
    | _ => rfl
  | pal n => cases r' with
    | pal m => rw [regRead, palColour_regWrite_pal, if_neg fun hn => h (by rw [hn]), regRead]
    | _ => rfl
  | fd i j => cases r' with
    | fd k l =>
      rw [regRead, frameDesc_regWrite_fd, regRead]
      split_ifs with hik
      · obtain ⟨rfl, -⟩ := hik
        exact fieldRead_fieldWrite_other _ j l v fun hl => h (by rw [hl])
      · rfl
    | _ => rfl

/-- What the host gets from a read: the register's value, unless the block is BUSY. -/
theorem hostReads_congr (s t : State) (reg : Nat) (hpar : t.par = s.par)
    (hstatus : t.ctl.status = s.ctl.status) (hb : s.ctl.status.state ≠ .busy)
    (h : regRead t.ctl (regOf s.par.nfMax.toNat reg) = regRead s.ctl (regOf s.par.nfMax.toNat reg)) :
    hostReads t reg = hostReads s reg := by
  rw [hostReads, hostReads, step_of_read (withQueue [.read reg] s) reg [] rfl (.inl hb),
    step_of_read (withQueue [.read reg] t) reg [] rfl (.inl (by rw [withQueue_ctl, hstatus]; exact hb))]
  simp only [withQueue_par, withQueue_ctl, hpar, h]

/-- Only number 0 names `CMD`. -/
theorem regOf_ne_cmd (nf reg : Nat) (h : reg ≠ 0x00) : regOf nf reg ≠ .cmd := by
  intro hcmd
  have hnum := regNumber_regOf nf reg (by simp [hcmd])
  rw [hcmd] at hnum
  exact h hnum.symm

/-- Settles O57: different numbers name different registers or reserved ones, and a write changes the
value of its own register only. -/
theorem registersAreIndependent : Obligations.RegistersAreIndependent := by
  intro s reg v q hq hb hreg
  obtain ⟨hstatus, herr⟩ := regWrite_readOnly s.ctl (regOf s.par.nfMax.toNat reg) v
  refine ⟨_, step_of_write_register s reg v q hq hb (regOf_ne_cmd _ reg hreg), rfl, hstatus, herr,
    fun reg' hne => hostReads_congr s _ reg' ?_ hstatus hb ?_⟩
  · rfl
  · by_cases hsame : regOf s.par.nfMax.toNat reg' = regOf s.par.nfMax.toNat reg
    · by_cases hres : regOf s.par.nfMax.toNat reg = .reserved
      · rw [hres]; rfl
      · have hnum := regNumber_regOf _ reg hres
        exact absurd ((regNumber_regOf _ reg' (hsame ▸ hres)).symm.trans (hsame ▸ hnum)) hne
    · exact regRead_regWrite_other s.ctl _ _ v hsame

/-! ## The register map -/

/-- A read while the block is not BUSY, with the register's value as a number. -/
theorem step_of_read_value (s : State) (reg : Nat) (q : List HostReq)
    (hq : s.host.queue = .read reg :: q) (hb : s.ctl.status.state ≠ .busy) (r : Reg)
    (hr : regOf s.par.nfMax.toNat reg = r) (x : Nat) (hx : regRead s.ctl r = BitVec.ofNat 32 x) :
    step s = .next { s with host := { s.host with queue := q, data := BitVec.ofNat 32 x } } := by
  rw [step_of_read s reg q hq (.inl hb), hr, hx]

/-- A write to a read-only or reserved number changes nothing (R22, log 18). -/
theorem step_of_write_ignored (s : State) (reg : Nat) (v : BitVec 32) (q : List HostReq)
    (hq : s.host.queue = .write reg v :: q) (hb : s.ctl.status.state ≠ .busy)
    (hreg : reg = 0x01 ∨ reg = 0x02 ∨ reservedNumber s.par.nfMax.toNat reg) :
    step s = .next (withQueue q s) := by
  have hr : regOf s.par.nfMax.toNat reg = .status ∨ regOf s.par.nfMax.toNat reg = .err ∨
      regOf s.par.nfMax.toNat reg = .reserved := by
    rcases hreg with rfl | rfl | hreg
    · exact .inl rfl
    · exact .inr (.inl rfl)
    · exact .inr (.inr (regOf_reserved _ reg hreg))
  have hcmd : regOf s.par.nfMax.toNat reg ≠ .cmd := by
    rcases hr with hr | hr | hr <;> simp [hr]
  rw [step_of_write_register s reg v q hq hb hcmd]
  rcases hr with hr | hr | hr <;> (rw [hr]; rfl)

/-- Settles O56: each number by the register it names, and each register by its value lemma. -/
theorem registersRead : Obligations.RegistersRead := by
  refine ⟨fun s reg v q hq hb hlen => ?_, fun s reg q hq hb => ?_, step_of_write_ignored⟩
  · have hreads := steps_write_read s reg v q hq hb
    refine ⟨?_, ?_, ?_, ?_, ?_, ?_⟩
    · rintro rfl; exact hreads .cfgFormat rfl nofun _ (regRead_regWrite_cfgFormat s.ctl v)
    · rintro rfl; exact hreads .cfgPng rfl nofun _ (regRead_regWrite_cfgPng s.ctl v)
    · rintro rfl; exact hreads .cfgGif rfl nofun _ (regRead_regWrite_cfgGif s.ctl v)
    · rintro rfl; exact hreads .nframes rfl nofun _ (regRead_regWrite_nframes s.ctl v)
    · rintro c hc rfl
      exact hreads _ (regOf_pal _ c hc) nofun _ (regRead_regWrite_pal s.ctl _ v)
    · rintro i j hi hj rfl
      exact hreads _ (regOf_fd _ i j hi hj) nofun _
        ((regRead_regWrite_fd s.ctl i j v (hlen ▸ hi)).trans (fieldRead_fieldWrite_same _ j v hj))
  · have hanswers := step_of_read_value s reg q hq hb
    refine ⟨?_, ?_, ?_, ?_, ?_, ?_, ?_, ?_, ?_, ?_⟩
    · rintro rfl; exact hanswers .cmd rfl _ rfl
    · rintro rfl
      refine hanswers .status rfl _ ((regRead_status s.ctl).trans ?_)
      cases s.ctl.status.state <;> rfl
    · rintro rfl; exact hanswers .err rfl _ (regRead_err s.ctl)
    · rintro rfl; exact hanswers .cfgFormat rfl _ (BitVec.ofNat_toNat 32 s.ctl.defaultFmt).symm
    · rintro rfl; exact hanswers .cfgPng rfl _ (regRead_cfgPng s.ctl)
    · rintro rfl; exact hanswers .cfgGif rfl _ (regRead_cfgGif s.ctl)
    · rintro rfl; exact hanswers .nframes rfl _ (BitVec.ofNat_toNat 32 s.ctl.nframes).symm
    · rintro c hc rfl
      refine hanswers _ (regOf_pal _ c hc) _ ?_
      rw [regRead, palColour_ofNat s.ctl c hc, BitVec.ofNat_toNat]
    · rintro i j f hf hi hj rfl
      have hdesc : frameDesc s.ctl i = f := by
        rw [frameDesc, List.getD_eq_getElem?_getD, hf, Option.getD_some]
      exact hanswers _ (regOf_fd _ i j hi hj) _ (hdesc ▸ fieldRead_eq f j hj)
    · exact fun hreg => hanswers _ (regOf_reserved _ reg hreg) _ rfl

end Sys2Proof.Machine
end

section
/-! A `WRITE` forgets what was before it (R46, R252). `forget` blanks what no later operation of the
`WRITE` reads; every operation commutes with it, and it keeps what the host can see. -/

namespace Sys2Proof.Machine

/-! ## What a state still holds from before -/

/-- The phases from `ASSEMBLE`'s hand-over to the GIF encoder on: `TFLAG` is of this `WRITE`. -/
def tflagIsSet (p : BitVec 6) : Bool :=
  p = phaseGhdr || p = phaseLsd || p = phaseGct || p = phaseAppext || p = phaseGce || p = phaseImgdesc ||
    p = phaseImgdata || p = phaseTrailer

/-- The phases after `IHDR`: `DEPTH` is of this `WRITE`. -/
def depthIsSet (p : BitVec 6) : Bool :=
  p = phasePlte || p = phaseTrns || p = phaseActl || p = phaseFctl || p = phaseIdat || p = phaseFdat

/-- The state with everything blanked that may be left from before the `WRITE` in progress. -/
def forget (s : State) : State :=
  { s with
    flg := { s.flg with tflag := tflagIsSet s.pc.phase && s.flg.tflag }
    png := { crc := 0, seq := s.png.seq, depth := if depthIsSet s.pc.phase then s.png.depth else 0 }
    gif := GifRegs.blank
    fout := .none
    host := { queue := [], data := 0, outCopy := [] } }

/-- What an operation answers, with what is left from before blanked. -/
def forgetOutcome (x : Host.Outcome State Fault Refusal) : Host.Outcome State Fault Refusal :=
  match x with
  | .next t => .next (forget t)
  | .fault r => .fault r
  | .refused r => .refused r

/-! ## The sequencer's choices: two states that take the same turn and agree after each turn -/

theorem forget_rasterLoop (i : Nat) (u v : State) (hn : u.ctl.nframes = v.ctl.nframes)
    (hnext : forget (gotoFrame phaseRaster (BitVec.ofNat 8 i) u) =
      forget (gotoFrame phaseRaster (BitVec.ofNat 8 i) v))
    (hend : forget (goto phaseAssemble u) = forget (goto phaseAssemble v)) :
    forget (rasterLoop i u) = forget (rasterLoop i v) := by
  unfold rasterLoop
  rw [hn]
  split_ifs
  · exact hnext
  · exact hend

theorem forget_toEncoder (u v : State) (hefmt : u.flg.efmt = v.flg.efmt)
    (hpng : forget (goto phaseSig u) = forget (goto phaseSig v))
    (hgif : forget (goto phaseGhdr { u with flg := { u.flg with tflag := tflagFor u.ctl u.pl.hasTrans } }) =
      forget (goto phaseGhdr { v with flg := { v.flg with tflag := tflagFor v.ctl v.pl.hasTrans } })) :
    forget (toEncoder u) = forget (toEncoder v) := by
  unfold toEncoder
  rw [hefmt]
  split_ifs
  · exact hpng
  · exact hgif

theorem forget_afterTrns (u v : State) (hn : animated u = animated v)
    (hactl : forget (goto phaseActl u) = forget (goto phaseActl v))
    (hidat : forget (goto phaseIdat u) = forget (goto phaseIdat v)) :
    forget (afterTrns u) = forget (afterTrns v) := by
  unfold afterTrns
  rw [hn]
  split_ifs
  · exact hactl
  · exact hidat

theorem forget_pngLoop (k : Nat) (u v : State) (hn : u.nsub = v.nsub)
    (hnext : forget (gotoSub phaseFctl (BitVec.ofNat 8 k) u) =
      forget (gotoSub phaseFctl (BitVec.ofNat 8 k) v))
    (hend : forget (goto phaseIend u) = forget (goto phaseIend v)) :
    forget (pngLoop k u) = forget (pngLoop k v) := by
  unfold pngLoop
  rw [hn]
  split_ifs
  · exact hnext
  · exact hend

theorem forget_gifLoop (k : Nat) (u v : State) (hn : u.nsub = v.nsub) (hgce : emitsGce u = emitsGce v)
    (hctrl : forget (gotoSub phaseGce (BitVec.ofNat 8 k) u) =
      forget (gotoSub phaseGce (BitVec.ofNat 8 k) v))
    (hdesc : forget (gotoSub phaseImgdesc (BitVec.ofNat 8 k) u) =
      forget (gotoSub phaseImgdesc (BitVec.ofNat 8 k) v))
    (hend : forget (goto phaseTrailer u) = forget (goto phaseTrailer v)) :
    forget (gifLoop k u) = forget (gifLoop k v) := by
  unfold gifLoop
  rw [hn, hgce]
  split_ifs
  · exact hctrl
  · exact hdesc
  · exact hend

/-- A choice that both sides make alike. -/
theorem apply_ite_congr {α β : Type} (F : α → β) {c d : Prop} [Decidable c] [Decidable d] (hcd : c ↔ d)
    {u v u' v' : α} (hpos : F u = F u') (hneg : F v = F v') :
    F (if c then u else v) = F (if d then u' else v') := by
  simp only [hcd]
  split_ifs
  · exact hpos
  · exact hneg

/-- An operation built on a computation that is the same from both states. -/
theorem forget_toOutcome {α : Type} (x : Flow α) (f g : α → State) (s t : State)
    (hok : ∀ a, forget (f a) = forget (g a))
    (hfault : ∀ c, forget (raiseFault c s) = forget (raiseFault c t)) :
    forgetOutcome ((x.andThen fun a => .ok (f a)).toOutcome s) =
      forgetOutcome ((x.andThen fun a => .ok (g a)).toOutcome t) := by
  cases x with
  | ok a => exact congrArg Host.Outcome.next (hok a)
  | refuse r => rfl
  | fault c => exact congrArg Host.Outcome.next (hfault c)

/-! ## The operations -/

/-- Every operation that `PHASE` names answers the same, whatever is left from before. -/
theorem exec_forget (i : Instr) (s : State) (hi : decodePhase s.pc.phase = .ok i) :
    forgetOutcome (exec i (forget s)) = forgetOutcome (exec i s) := by
  have henc := encode_of_decodePhase _ i hi
  clear hi
  obtain ⟨par, ctl, mem, out, ⟨phase, fi, k⟩, ⟨efmt, useFlash, tflag⟩, pl, sets, sf, nsub,
    ⟨crc, seq, depth⟩, gif, fout, host⟩ := s
  cases i with
  | idle | sig | ihdr | actl | iend | ghdr | lsd | gce | trailer | finish => cases henc; rfl
  | validate =>
    cases henc
    simp only [exec, execValidate, forget]
    split
    · rfl
    · exact congrArg Host.Outcome.next (forget_rasterLoop _ _ _ rfl rfl rfl)
  | raster =>
    cases henc
    exact forget_toOutcome (rasterFrame _ (frameDesc ctl fi.toNat) (sets.getD fi.toNat FrameSet.blank))
      _ _ _ _ (fun _ => forget_rasterLoop _ _ _ rfl rfl rfl) fun _ => rfl
  | assemble =>
    cases henc
    exact congrArg Host.Outcome.next (forget_toEncoder _ _ rfl rfl rfl)
  | plte =>
    cases henc
    exact congrArg Host.Outcome.next (apply_ite_congr forget Iff.rfl rfl (forget_afterTrns _ _ rfl rfl rfl))
  | trns =>
    cases henc
    exact congrArg Host.Outcome.next (forget_afterTrns _ _ rfl rfl rfl)
  | fctl =>
    cases henc
    exact congrArg Host.Outcome.next (apply_ite_congr forget Iff.rfl rfl rfl)
  | idat | fdat =>
    cases henc
    exact congrArg Host.Outcome.next (forget_pngLoop _ _ _ rfl rfl rfl)
  | gct =>
    cases henc
    exact congrArg Host.Outcome.next
      (apply_ite_congr forget Iff.rfl rfl (forget_gifLoop _ _ _ rfl rfl rfl rfl rfl))
  | appext =>
    cases henc
    exact congrArg Host.Outcome.next (forget_gifLoop _ _ _ rfl rfl rfl rfl rfl)
  | imgdesc =>
    cases henc
    exact apply_ite_congr forgetOutcome Iff.rfl rfl rfl
  | imgdata =>
    cases henc
    exact forget_toOutcome (imageData (paletteLen ctl pl) (sf.getD k.toNat SubFrame.blank)) _ _ _ _
      (fun _ => forget_gifLoop _ _ _ rfl rfl rfl rfl rfl) fun _ => rfl
  | _ => cases henc

/-! ## The run -/

/-- Two states that differ in what is left from before answer the same to an operation. -/
theorem exec_congr (i : Instr) (s t : State) (hst : forget s = forget t)
    (hi : decodePhase s.pc.phase = .ok i) : forgetOutcome (exec i s) = forgetOutcome (exec i t) := by
  have hphase : s.pc.phase = t.pc.phase := congrArg (·.pc.phase) hst
  rw [← exec_forget i s hi, hst, exec_forget i t (hphase ▸ hi)]

/-- With no access to come, two such states show the same to the host after any number of steps. -/
theorem hostView_steps_congr (n : Nat) (s t : State) (hs : s.host.queue = []) (ht : t.host.queue = [])
    (hst : forget s = forget t) : hostView (steps n s) = hostView (steps n t) := by
  induction n generalizing s t with
  | zero =>
    have hview : hostView (.next (forget s)) = hostView (.next (forget t)) := by rw [hst]
    exact hview
  | succ n ih =>
    have hphase : s.pc.phase = t.pc.phase := congrArg (·.pc.phase) hst
    rw [steps, steps, step_of_empty s hs, step_of_empty t ht]
    cases hi : decodePhase s.pc.phase with
    | error e => simp only [seqStep, hi, ← hphase]
    | ok i =>
      have hout := exec_congr i s t hst hi
      rw [seqStep_of_decodePhase s i hi, seqStep_of_decodePhase t i (hphase ▸ hi)]
      cases hs' : exec i s with
      | next s' =>
        cases ht' : exec i t with
        | next t' =>
          obtain ⟨-, -, -, -, hhs⟩ := operationsKeepInputs i s s' hs'
          obtain ⟨-, -, -, -, hht⟩ := operationsKeepInputs i t t' ht'
          rw [hs', ht'] at hout
          exact ih s' t' (by rw [hhs, hs]) (by rw [hht, ht]) (Host.Outcome.next.inj hout)
        | fault | refused => rw [hs', ht'] at hout; cases hout
      | fault r | refused r =>
        cases ht' : exec i t with
        | next => rw [hs', ht'] at hout; cases hout
        | fault | refused => rfl

/-- In IDLE with no access to come nothing happens any more. -/
theorem steps_of_idle (n : Nat) (s : State) (hs : s.host.queue = []) (hphase : s.pc.phase = phaseIdle) :
    steps n s = .next s := by
  induction n with
  | zero => rfl
  | succ n ih =>
    rw [steps, step_of_empty s hs, seqStep_of_decodePhase s .idle (by rw [hphase]; rfl)]
    exact ih

/-- What is left from before an accepted `WRITE` is blanked: R46 sets the rest from the inputs alone. -/
theorem forget_accepted (efmt : BitVec 2) (s t : State) (hpar : s.par = t.par) (hmem : s.mem = t.mem)
    (hctl : t.ctl = { s.ctl with
      err := t.ctl.err, status := { t.ctl.status with fault := s.ctl.status.fault } }) :
    forget (goto phaseValidate { acceptWrite s with
        flg := { s.flg with efmt := efmt, useFlash := useFlashFor s.ctl efmt } }) =
      forget (goto phaseValidate { acceptWrite t with
        flg := { t.flg with efmt := efmt, useFlash := useFlashFor t.ctl efmt } }) := by
  have hinit : (acceptWrite t).ctl = (acceptWrite s).ctl := by rw [acceptWrite_ctl, hctl, acceptWrite_ctl]
  have huse : useFlashFor t.ctl efmt = useFlashFor s.ctl efmt := by rw [hctl]; rfl
  have htflag : tflagIsSet phaseValidate = false := rfl
  have hdepth : depthIsSet phaseValidate = false := rfl
  simp [forget, goto, hinit, huse, htflag, hdepth, hpar, hmem, -acceptWrite_ctl]

/-- Settles O55: an unsupported format ends the `WRITE` at once with the same error; an accepted one
leaves two states that differ in what no later operation reads. -/
theorem writeForgetsThePast : Obligations.WriteForgetsThePast := by
  intro fmt s t s' t' n hs ht hpar hmem hctl hs' ht'
  have hfmt : t.ctl.defaultFmt = s.ctl.defaultFmt := by rw [hctl]
  have hfault : t.ctl.status.fault = s.ctl.status.fault := by rw [hctl]
  obtain ⟨hfs, rfl⟩ | ⟨efmt, hfs, rfl⟩ := execWrite_cases fmt s s' hs'
  · obtain ⟨-, rfl⟩ | ⟨efmt', hft, -⟩ := execWrite_cases fmt t t' ht'
    · rw [steps_of_idle n (raiseError eFormat 0 (acceptWrite s)) hs rfl,
        steps_of_idle n (raiseError eFormat 0 (acceptWrite t)) ht rfl]
      simp [hostView, hfault]
    · rw [hfmt, hfs] at hft
      cases hft
  · obtain ⟨hft, -⟩ | ⟨efmt', hft, rfl⟩ := execWrite_cases fmt t t' ht'
    · rw [hfmt, hfs] at hft
      cases hft
    · rw [hfmt, hfs] at hft
      cases hft
      exact hostView_steps_congr n _ _ hs ht (forget_accepted efmt s t hpar hmem hctl)

end Sys2Proof.Machine
end

section
/-! Cell memory stays canonical and in range (R54): only a host memory write and the reset input change
it, the write lists no address outside the bytes it writes, and the block refuses it beyond
`CELLMEM_SIZE`. -/

namespace Sys2Proof.Machine

/-- The addresses a write of several bytes lists are those of its bytes and those listed before. -/
theorem mem_memWriteBytes (b : Bytes) (m : Memory) (a : Nat) (c : Host.Cell)
    (h : c ∈ memWriteBytes m a b) : c.1 < a + b.length ∨ c ∈ m := by
  induction b generalizing m a with
  | nil => exact .inr h
  | cons v vs ih =>
    rw [List.length_cons]
    obtain hlt | hmem := ih (memWrite m a v) (a + 1) h
    · exact .inl (by omega)
    · exact (mem_memWrite m a v c hmem).imp_left fun hc => by omega

/-- Only cell memory and the parameters matter. -/
theorem MemoryInv.congr {s t : State} (h : MemoryInv s) (hmem : t.mem = s.mem) (hpar : t.par = s.par) :
    MemoryInv t := by
  unfold MemoryInv
  rw [hmem, hpar]
  exact h

/-- No operation touches cell memory (O47). -/
theorem memoryInv_exec (i : Instr) (s t : State) (hs : MemoryInv s) (h : exec i s = .next t) :
    MemoryInv t := by
  obtain ⟨-, hmem, -, hpar, -⟩ := operationsKeepInputs i s t h
  exact hs.congr hmem hpar

theorem memoryInv_seqStep (s t : State) (hs : MemoryInv s) (h : seqStep s = .next t) : MemoryInv t := by
  obtain ⟨i, -, h⟩ := seqStep_cases s t h
  exact memoryInv_exec i s t hs h

theorem memoryInv_hostWrite (n : Nat) (v : BitVec 32) (s t : State) (hs : MemoryInv s)
    (h : hostWrite n v s = .next t) : MemoryInv t := by
  obtain ⟨-, ⟨-, hcmd⟩ | ⟨r, -, -, rfl⟩⟩ := hostWrite_cases n v s t h
  · obtain ⟨-, hwrite⟩ | ⟨-, rfl⟩ := cmdWrite_cases _ s t hcmd
    · exact memoryInv_exec _ s t hs hwrite
    · exact hs
  · exact hs

theorem memoryInv_hostRead (n : Nat) (s t : State) (hs : MemoryInv s) (h : hostRead n s = .next t) :
    MemoryInv t := by
  unfold hostRead at h
  split_ifs at h
  cases h; exact hs

theorem memoryInv_hostReadOut (s t : State) (hs : MemoryInv s) (h : hostReadOut s = .next t) :
    MemoryInv t := by
  unfold hostReadOut at h
  split_ifs at h
  cases h; exact hs

/-- A host memory write that completes has every byte inside `CELLMEM_SIZE` (log 19). -/
theorem hostMemWrite_cases (a : Nat) (b : Bytes) (s t : State) (h : hostMemWrite a b s = .next t) :
    (b = [] ∨ a + b.length ≤ s.par.cellMemSize) ∧ t = { s with mem := memWriteBytes s.mem a b } := by
  unfold hostMemWrite at h
  split_ifs at h with _ hfit
  cases h
  refine ⟨?_, rfl⟩
  rw [not_and_or, not_not, Nat.not_lt] at hfit
  exact hfit

theorem memoryInv_hostMemWrite (a : Nat) (b : Bytes) (s t : State) (hs : MemoryInv s)
    (h : hostMemWrite a b s = .next t) : MemoryInv t := by
  obtain ⟨rfl | hfit, rfl⟩ := hostMemWrite_cases a b s t h
  · exact hs
  · obtain ⟨hwf, hin⟩ := hs
    refine ⟨memWf_memWriteBytes b s.mem a hwf, fun c hc => ?_⟩
    obtain hlt | hmem := mem_memWriteBytes b s.mem a c hc
    · exact Nat.lt_of_lt_of_le hlt hfit
    · exact hin c hmem

/-- After a reset cell memory lists nothing, whatever it held (log 8, log 10). -/
theorem memoryInv_hostReset (s t : State) (h : hostReset s = .next t) : MemoryInv t := by
  cases h
  exact ⟨memWf_reset s.par, nofun⟩

/-- Settles O49: of all a step can do, only a host memory write and a reset reach cell memory. -/
theorem memoryFormKept : Obligations.MemoryFormKept := by
  intro s t hs h
  obtain ⟨-, h⟩ | ⟨q, -, h⟩ | ⟨q, -, -, h⟩ | ⟨q, -, -, rfl⟩ | ⟨n, v, q, -, h⟩ | ⟨n, q, -, h⟩ |
    ⟨a, b, q, -, h⟩ | ⟨q, -, h⟩ | ⟨q, -, h⟩ := step_cases s t h
  · exact memoryInv_seqStep s t hs h
  · exact memoryInv_seqStep (withQueue q s) t hs h
  · exact memoryInv_seqStep s t hs h
  · exact hs
  · exact memoryInv_hostWrite n v (withQueue q s) t hs h
  · exact memoryInv_hostRead n (withQueue q s) t hs h
  · exact memoryInv_hostMemWrite a b (withQueue q s) t hs h
  · exact memoryInv_hostReadOut (withQueue q s) t hs h
  · exact memoryInv_hostReset (withQueue q s) t h

end Sys2Proof.Machine
end

section
/-! `RASTER` visits every cell that the grid shows, and so it is refused when one of them cannot be read
(R51, R117, R118). -/

namespace Sys2Proof.Machine

/-- A loop that completes completed every one of its passes. -/
theorem Flow.loop_pass_of_ok {α β : Type} (f : α → β → Flow α) (bs : List β) (a c : α)
    (h : Flow.loop f a bs = .ok c) (b : β) (hb : b ∈ bs) : ∃ x y, f x b = .ok y := by
  induction bs generalizing a with
  | nil => cases hb
  | cons b' bs ih =>
    obtain ⟨a', hfirst, hrest⟩ := (Flow.andThen_eq_ok _ _ _).1 h
    obtain rfl | hb := List.mem_cons.1 hb
    · exact ⟨a, a', hfirst⟩
    · exact ih a' hrest hb

theorem mem_pairs (rows cols y x : Nat) : (y, x) ∈ pairs rows cols ↔ y < rows ∧ x < cols := by
  simp [pairs]

/-! ## What is visited (R117, R118) -/

/-- Position `x` of a crop of `w` from `x0` lies in the span of the source position it shows, scaled
by `s`. -/
theorem spanLo_lt_spanHi_of_shown (s x0 w x : Nat) (hs : 0 < s) (hx : x < w) :
    spanLo ((x0 + x) / s) s x0 < spanHi ((x0 + x) / s) s x0 w := by
  have hlo : (x0 + x) / s * s ≤ x0 + x := Nat.div_mul_le_self _ _
  have hhi : x0 + x < ((x0 + x) / s + 1) * s := Nat.lt_mul_of_div_lt (Nat.lt_succ_self _) hs
  unfold spanLo spanHi
  omega

theorem visibleX_sourceX (f : FrameDesc) (x : Nat) (hscale : 0 < f.scale.toNat)
    (hx : x < f.cropW.toNat) : visibleX f (sourceX f x) = true :=
  decide_eq_true (spanLo_lt_spanHi_of_shown _ _ _ _ hscale hx)

theorem visibleY_sourceY (f : FrameDesc) (y : Nat) (hscale : 0 < f.scale.toNat)
    (hy : y < f.cropH.toNat) : visibleY f (sourceY f y) = true :=
  decide_eq_true (spanLo_lt_spanHi_of_shown _ _ _ _ hscale hy)

/-- The cell of a visible source pixel is visited. -/
theorem cellVisited_of_visible (f : FrameDesc) (sy sx : Nat) (hy : visibleY f sy = true)
    (hx : visibleX f sx = true) : cellVisited f (sy / 8) (sx / 8) = true := by
  rw [cellVisited, Bool.and_eq_true, List.any_eq_true, List.any_eq_true]
  refine ⟨⟨sx % 8, ?_, ?_⟩, ⟨sy % 8, ?_, ?_⟩⟩
  · exact List.mem_range.2 (Nat.mod_lt _ (by decide))
  · rwa [Nat.div_add_mod]
  · exact List.mem_range.2 (Nat.mod_lt _ (by decide))
  · rwa [Nat.div_add_mod]

/-- The cell that a position of a crop inside the native image shows is one of its `n` cells. -/
theorem shown_div_lt (s n x0 w x : Nat) (hs : 0 < s) (hcrop : x0 + w ≤ 8 * s * n) (hx : x < w) :
    (x0 + x) / s / 8 < n := by
  rw [Nat.div_div_eq_div_mul, Nat.div_lt_iff_lt_mul (by omega)]
  calc x0 + x < x0 + w := by omega
    _ ≤ 8 * s * n := hcrop
    _ = n * (s * 8) := by ring

/-- The cell of every grid element is one of the frame's cells. -/
theorem FrameOk.shown_mem_pairs {f : FrameDesc} (h : FrameOk f) (y x : Nat) (hy : y < f.cropH.toNat)
    (hx : x < f.cropW.toNat) :
    (sourceY f y / 8, sourceX f x / 8) ∈ pairs f.rows.toNat f.cols.toNat := by
  obtain ⟨-, -, hscale, -, -, hcols, hrows⟩ := h
  exact (mem_pairs _ _ _ _).2
    ⟨shown_div_lt _ _ _ _ _ hscale hrows hy, shown_div_lt _ _ _ _ _ hscale hcols hx⟩

/-- The cell of every grid element is visited. -/
theorem FrameOk.cellVisited_shown {f : FrameDesc} (h : FrameOk f) (y x : Nat) (hy : y < f.cropH.toNat)
    (hx : x < f.cropW.toNat) : cellVisited f (sourceY f y / 8) (sourceX f x / 8) = true := by
  obtain ⟨-, -, hscale, -⟩ := h
  exact cellVisited_of_visible f _ _ (visibleY_sourceY f y hscale hy) (visibleX_sourceX f x hscale hx)

/-! ## What is read (R51) -/

theorem recordAddr_eq_cellAddr (f : FrameDesc) (sy sx : Nat) :
    recordAddr f sy sx = cellAddr f (sy / 8) (sx / 8) := rfl

/-- A visited cell that was rasterised was read. -/
theorem rasterCell_read (size : Nat) (mem : Memory) (ctl : Control) (f : FrameDesc) (useFlash : Bool)
    (g g' : RasterRegs) (cr cc : Nat) (hvisited : cellVisited f cr cc = true)
    (h : rasterCell size mem ctl f useFlash g (cr, cc) = .ok g') :
    ∃ r, memReadBytes size mem (cellAddr f cr cc) 18 = .ok r := by
  rw [rasterCell, if_pos hvisited] at h
  split at h
  · cases h
  · exact ⟨_, by assumption⟩

/-- A frame that was rasterised had every cell that its grid shows readable. -/
theorem cellsReadable_of_rasterFrame (s : State) (f : FrameDesc) (old : FrameSet) (g : RasterRegs)
    (hok : FrameOk f) (h : rasterFrame s f old = .ok g) : CellsReadable s f := by
  intro y x i hy hx hi
  obtain ⟨_, _, hcell⟩ := Flow.loop_pass_of_ok _ _ _ _ h _ (hok.shown_mem_pairs y x hy hx)
  obtain ⟨r, hread⟩ := rasterCell_read _ _ _ _ _ _ _ _ _ (hok.cellVisited_shown y x hy hx) hcell
  obtain ⟨hlen, hbytes⟩ := memReadBytes_ok _ _ _ _ _ hread
  obtain ⟨hin, hbyte⟩ := hbytes i hi
  rw [recordAddr_eq_cellAddr, hbyte]
  exact ⟨hin, by simp [hlen, hi]⟩

/-- From palette registers that `PALADD` built, rasterising a frame raises no fault. -/
theorem rasterFrame_meets (s : State) (f : FrameDesc) (old : FrameSet) (hpl : PaletteOk s.ctl s.pl) :
    (rasterFrame s f old).Meets fun g => PaletteOk s.ctl g.pl :=
  Flow.Meets.loop (rasterCell_meets s.par.cellMemSize s.mem s.ctl f s.flg.useFlash)
    { pl := s.pl, set := blankSet f old } hpl _

/-- Settles O18: the frame's computation raises no fault, and to complete it has to read every cell that
the grid shows. -/
theorem rasterRefusesUnreadableCells : Obligations.RasterRefusesUnreadableCells := by
  intro s f hok hpl hunreadable
  have hmeets := rasterFrame_meets s f (frameSet s s.pc.fi.toNat) hpl
  cases hframe : rasterFrame s f (frameSet s s.pc.fi.toNat) with
  | ok g => exact absurd (cellsReadable_of_rasterFrame s f _ g hok hframe) hunreadable
  | refuse r =>
    refine ⟨r, ?_⟩
    change execRaster s = .refused r
    rw [execRaster, hframe]
    rfl
  | fault c => rw [hframe] at hmeets; exact hmeets.elim

end Sys2Proof.Machine
end

section
/-! Bits packed into bytes (R57): a scanline's indices, most significant bit first (R177), and the LZW
codes, least significant bit first (R214). Both packers carry an accumulator of bits that no byte holds
yet, and each proof says what the bytes to come hold in terms of it. -/

namespace Sys2Proof.Machine

/-! ## The bits of a number -/

/-- The low `n` bits of a number, most significant first. -/
def msbBits (n a : Nat) : List Bool := (List.range n).map fun i => a.testBit (n - 1 - i)

/-- The low `n` bits of a number, least significant first. -/
def lsbBits (n a : Nat) : List Bool := (List.range n).map a.testBit

theorem indexBits_eq_msbBits (d : Nat) (p : BitVec 8) : indexBits d p = msbBits d p.toNat := rfl

theorem codeBits_eq_lsbBits (c : Code) : codeBits c = lsbBits c.width.toNat c.code.toNat := rfl

theorem bitsLsbFirst_cons (x : Byte) (b : Bytes) :
    bitsLsbFirst (x :: b) = lsbBits 8 x.toNat ++ bitsLsbFirst b := rfl

theorem bitsLsbFirst_append (a b : Bytes) :
    bitsLsbFirst (a ++ b) = bitsLsbFirst a ++ bitsLsbFirst b := List.flatMap_append

/-- Only the low `n` bits of the number matter. -/
theorem msbBits_congr (n a b : Nat) (h : ∀ i, i < n → a.testBit i = b.testBit i) :
    msbBits n a = msbBits n b :=
  List.map_congr_left fun i hi => h _ (by have := List.mem_range.1 hi; omega)

theorem lsbBits_congr (n a b : Nat) (h : ∀ i, i < n → a.testBit i = b.testBit i) :
    lsbBits n a = lsbBits n b :=
  List.map_congr_left fun i hi => h i (List.mem_range.1 hi)

theorem msbBits_zero (n : Nat) : msbBits n 0 = List.replicate n false := by
  simp [msbBits]

theorem lsbBits_zero (n : Nat) : lsbBits n 0 = List.replicate n false :=
  List.eq_replicate_iff.2 ⟨by simp [lsbBits], by simp [lsbBits]⟩

/-- The first `m` of `m + n` bits, most significant first, are those above the low `n`. -/
theorem msbBits_add (m n a : Nat) : msbBits (m + n) a = msbBits m (a >>> n) ++ msbBits n a := by
  rw [msbBits, List.range_add, List.map_append, List.map_map]
  congr 1
  · refine List.map_congr_left fun i hi => ?_
    have := List.mem_range.1 hi
    rw [Nat.testBit_shiftRight]
    congr 1; omega
  · refine List.map_congr_left fun i hi => ?_
    simp only [Function.comp_apply]
    congr 1; omega

/-- The first `m` of `m + n` bits, least significant first, are the low `m`. -/
theorem lsbBits_add (m n a : Nat) : lsbBits (m + n) a = lsbBits m a ++ lsbBits n (a >>> m) := by
  rw [lsbBits, List.range_add, List.map_append, List.map_map]
  congr 1
  exact List.map_congr_left fun i _ => (Nat.testBit_shiftRight a).symm

/-! ## Scanlines (R177) -/

/-- A byte holds the low 8 bits of the number it is cut from. -/
theorem bitsMsbFirst_byteOf_cons (a : Nat) (b : Bytes) :
    bitsMsbFirst (byteOf a :: b) = msbBits 8 a ++ bitsMsbFirst b := by
  have hlow : msbBits 8 (byteOf a).toNat = msbBits 8 a :=
    msbBits_congr 8 _ _ fun i hi => by simp [byteOf, Nat.testBit_mod_two_pow _ 8, hi]
  rw [← hlow]
  rfl

/-- An index of `d` bits shifted in below the bits of the accumulator. -/
theorem msbBits_shiftIn (cnt d acc p : Nat) (hp : p < 2 ^ d) :
    msbBits (cnt + d) (acc <<< d ||| p) = msbBits cnt acc ++ msbBits d p := by
  have hhigh : (acc <<< d ||| p) >>> d = acc := by
    rw [Nat.shiftRight_or_distrib, Nat.shiftLeft_shiftRight, Nat.shiftRight_eq_div_pow,
      Nat.div_eq_of_lt hp, Nat.or_zero]
  have hlow : msbBits d (acc <<< d ||| p) = msbBits d p :=
    msbBits_congr d _ _ fun i hi => by simp [Nat.not_le.2 hi]
  rw [msbBits_add, hhigh, hlow]

/-- The bits that the rest of a scanline gives from an accumulator `acc` of `cnt` bits: those of the
accumulator, those of the indices to come, and the pad. -/
theorem bitsMsbFirst_packRow (d : Nat) (hd : d = 1 ∨ d = 2 ∨ d = 4 ∨ d = 8) (row : List (BitVec 8))
    (hrow : ∀ p ∈ row, p.toNat < 2 ^ d) (acc cnt : Nat) (hcnt : cnt < 8) (hmod : cnt % d = 0) :
    ∃ pad, pad < 8 ∧ bitsMsbFirst (packRow d acc cnt row) =
      msbBits cnt acc ++ row.flatMap (indexBits d) ++ List.replicate pad false := by
  induction row generalizing acc cnt with
  | nil =>
    rw [packRow]
    split_ifs with hpos
    · refine ⟨8 - cnt, by omega, ?_⟩
      have hshift := msbBits_shiftIn cnt (8 - cnt) acc 0 (Nat.two_pow_pos _)
      rw [Nat.or_zero, Nat.add_sub_cancel' hcnt.le, msbBits_zero] at hshift
      rw [bitsMsbFirst_byteOf_cons, hshift]
      simp [bitsMsbFirst]
    · obtain rfl : cnt = 0 := by omega
      exact ⟨0, by decide, rfl⟩
  | cons p ps ih =>
    have hp := hrow p List.mem_cons_self
    have hps : ∀ q ∈ ps, q.toNat < 2 ^ d := fun q hq => hrow q (List.mem_cons_of_mem p hq)
    have hbits := msbBits_shiftIn cnt d acc p.toNat hp
    rw [packRow]
    split_ifs with hfull
    · obtain ⟨pad, hpad, hrest⟩ := ih hps 0 0 (by decide) (Nat.zero_mod d)
      rw [hfull] at hbits
      refine ⟨pad, hpad, ?_⟩
      rw [bitsMsbFirst_byteOf_cons, hrest, hbits, List.flatMap_cons, indexBits_eq_msbBits]
      simp [msbBits]
    · have hroom : cnt + d < 8 := by obtain rfl | rfl | rfl | rfl := hd <;> omega
      obtain ⟨pad, hpad, hrest⟩ := ih hps _ (cnt + d) hroom (by simp [hmod])
      refine ⟨pad, hpad, ?_⟩
      rw [hrest, hbits, List.flatMap_cons, indexBits_eq_msbBits]
      simp

/-- Settles O29: a scanline starts with an empty accumulator. -/
theorem packedRowUnpacks : Obligations.PackedRowUnpacks := by
  intro d row hd hrow
  exact bitsMsbFirst_packRow d hd row hrow 0 0 (by decide) (Nat.zero_mod d)

/-! ## LZW codes (R214) -/

/-- The bits that no byte holds yet. -/
def BitRegs.pending (r : BitRegs) : List Bool := lsbBits r.bitcnt.toNat r.bitacc.toNat

/-- `BITACC` holds nothing above its `BITCNT` bits. -/
def BitRegs.Clean (r : BitRegs) : Prop := r.bitacc.toNat < 2 ^ r.bitcnt.toNat

/-- The byte that goes out holds the low 8 bits of the accumulator. -/
theorem lsbBits_low_byte (acc : BitVec 24) :
    lsbBits 8 (acc.extractLsb' 0 8).toNat = lsbBits 8 acc.toNat :=
  lsbBits_congr 8 _ _ fun i hi => by
    simp [BitVec.extractLsb'_toNat, Nat.testBit_mod_two_pow _ 8, hi]

theorem toNat_sub_eight (n : BitVec 5) (h : 8 ≤ n.toNat) : (n - 8).toNat = n.toNat - 8 := by
  bv_omega

/-- Taking a byte out of the accumulator leaves it clean. -/
theorem BitRegs.Clean.dropByte {r : BitRegs} (h : r.Clean) (hbyte : 8 ≤ r.bitcnt.toNat) :
    BitRegs.Clean { bitacc := r.bitacc >>> 8, bitcnt := r.bitcnt - 8 } := by
  unfold BitRegs.Clean at h ⊢
  rw [BitVec.toNat_ushiftRight, Nat.shiftRight_eq_div_pow, toNat_sub_eight _ hbyte]
  refine Nat.div_lt_of_lt_mul ?_
  rwa [← Nat.pow_add, Nat.add_sub_cancel' hbyte]

/-- The bits pending before a byte is taken out are the byte's and those pending after. -/
theorem BitRegs.pending_dropByte (r : BitRegs) (hbyte : 8 ≤ r.bitcnt.toNat) :
    r.pending = lsbBits 8 (r.bitacc.extractLsb' 0 8).toNat ++
      BitRegs.pending { bitacc := r.bitacc >>> 8, bitcnt := r.bitcnt - 8 } := by
  rw [lsbBits_low_byte, pending, pending, toNat_sub_eight _ hbyte, BitVec.toNat_ushiftRight,
    ← lsbBits_add, Nat.add_sub_cancel' hbyte]

/-- The drain leaves fewer than 8 bits and loses none. -/
theorem bitsDrain_spec (fuel : Nat) (r : BitRegs) (hclean : r.Clean)
    (hfuel : r.bitcnt.toNat < 8 * fuel + 8) :
    (bitsDrain fuel r).2.Clean ∧ (bitsDrain fuel r).2.bitcnt.toNat < 8 ∧
      bitsLsbFirst (bitsDrain fuel r).1 ++ (bitsDrain fuel r).2.pending = r.pending := by
  induction fuel generalizing r with
  | zero => exact ⟨hclean, hfuel, rfl⟩
  | succ fuel ih =>
    rw [bitsDrain]
    split_ifs with hbyte
    · obtain ⟨hclean', hshort, hbits⟩ := ih _ (hclean.dropByte hbyte)
        (by rw [toNat_sub_eight _ hbyte]; omega)
      refine ⟨hclean', hshort, ?_⟩
      rw [r.pending_dropByte hbyte, bitsLsbFirst_cons, List.append_assoc, hbits]
    · exact ⟨hclean, Nat.not_le.1 hbyte, rfl⟩

/-- A code put above the bits of the accumulator. -/
theorem lsbBits_putAbove (cnt w acc c : Nat) (hacc : acc < 2 ^ cnt) :
    lsbBits (cnt + w) (acc ||| c <<< cnt) = lsbBits cnt acc ++ lsbBits w c := by
  have hlow : lsbBits cnt (acc ||| c <<< cnt) = lsbBits cnt acc :=
    lsbBits_congr cnt _ _ fun i hi => by simp [Nat.not_le.2 hi]
  have hhigh : (acc ||| c <<< cnt) >>> cnt = c := by
    rw [Nat.shiftRight_or_distrib, Nat.shiftLeft_shiftRight, Nat.shiftRight_eq_div_pow,
      Nat.div_eq_of_lt hacc, Nat.zero_or]
  rw [lsbBits_add, hlow, hhigh]

/-- With fewer than 8 bits pending a 12-bit code stays inside the 24 bits of `BITACC`. -/
theorem toNat_setWidth_shiftLeft (c : BitVec 12) (n : Nat) (hn : n < 8) :
    (c.setWidth 24 <<< n).toNat = c.toNat <<< n := by
  have hc := c.isLt
  have hfits : c.toNat * 2 ^ n < 2 ^ 24 :=
    calc c.toNat * 2 ^ n < 2 ^ 12 * 2 ^ n := Nat.mul_lt_mul_of_pos_right hc (Nat.two_pow_pos n)
      _ ≤ 2 ^ 12 * 2 ^ 12 := Nat.mul_le_mul_left _ (Nat.pow_le_pow_right (by decide) (by omega))
  rw [BitVec.toNat_shiftLeft, BitVec.toNat_setWidth, Nat.mod_eq_of_lt (by omega : c.toNat < 2 ^ 24),
    Nat.shiftLeft_eq, Nat.mod_eq_of_lt hfits]

/-- Putting a code in keeps the accumulator clean and short, and adds the code's bits to those pending. -/
theorem bitsPut_spec (r : BitRegs) (c : Code) (hclean : r.Clean) (hshort : r.bitcnt.toNat < 8)
    (hcode : c.code.toNat < 2 ^ c.width.toNat) :
    (bitsPut r c).2.Clean ∧ (bitsPut r c).2.bitcnt.toNat < 8 ∧
      bitsLsbFirst (bitsPut r c).1 ++ (bitsPut r c).2.pending = r.pending ++ codeBits c := by
  have hcnt : (r.bitcnt + c.width.setWidth 5).toNat = r.bitcnt.toNat + c.width.toNat := by bv_omega
  have hacc : (r.bitacc ||| c.code.setWidth 24 <<< r.bitcnt.toNat).toNat =
      r.bitacc.toNat ||| c.code.toNat <<< r.bitcnt.toNat := by
    rw [BitVec.toNat_or, toNat_setWidth_shiftLeft _ _ hshort]
  unfold BitRegs.Clean at hclean
  have hfits : r.bitacc.toNat ||| c.code.toNat <<< r.bitcnt.toNat <
      2 ^ (r.bitcnt.toNat + c.width.toNat) := by
    refine Nat.or_lt_two_pow (hclean.trans_le (Nat.pow_le_pow_right (by decide) (by omega))) ?_
    rw [Nat.shiftLeft_eq, Nat.add_comm, Nat.pow_add]
    exact Nat.mul_lt_mul_of_pos_right hcode (Nat.two_pow_pos _)
  obtain ⟨hclean', hshort', hbits⟩ := bitsDrain_spec 4
    { bitacc := r.bitacc ||| (c.code.setWidth 24 <<< r.bitcnt.toNat)
      bitcnt := r.bitcnt + c.width.setWidth 5 }
    (by rw [BitRegs.Clean, hacc, hcnt]; exact hfits)
    (by have := c.width.isLt; dsimp only; omega)
  refine ⟨hclean', hshort', hbits.trans ?_⟩
  rw [BitRegs.pending, hacc, hcnt, lsbBits_putAbove _ _ _ _ hclean]
  rfl

/-- The bits that the rest of the codes give: those pending, those of the codes to come, and the pad. -/
theorem bitsLsbFirst_bitsRun (codes : List Code)
    (hcodes : ∀ c ∈ codes, c.code.toNat < 2 ^ c.width.toNat) (r : BitRegs) (hclean : r.Clean)
    (hshort : r.bitcnt.toNat < 8) :
    ∃ pad, pad < 8 ∧ bitsLsbFirst (bitsRun r codes).1 =
      r.pending ++ codes.flatMap codeBits ++ List.replicate pad false := by
  induction codes generalizing r with
  | nil =>
    rw [bitsRun]
    dsimp only
    split_ifs with hpos
    · refine ⟨8 - r.bitcnt.toNat, by omega, ?_⟩
      have hflush := lsbBits_putAbove r.bitcnt.toNat (8 - r.bitcnt.toNat) r.bitacc.toNat 0 hclean
      rw [Nat.zero_shiftLeft, Nat.or_zero, Nat.add_sub_cancel' hshort.le, lsbBits_zero] at hflush
      rw [bitsLsbFirst_cons, lsbBits_low_byte, hflush]
      simp [bitsLsbFirst, BitRegs.pending]
    · have hnone : r.bitcnt.toNat = 0 := by omega
      exact ⟨0, by decide, by rw [BitRegs.pending, hnone]; rfl⟩
  | cons c cs ih =>
    obtain ⟨hclean', hshort', hput⟩ := bitsPut_spec r c hclean hshort (hcodes c List.mem_cons_self)
    obtain ⟨pad, hpad, hrest⟩ :=
      ih (fun c' hc' => hcodes c' (List.mem_cons_of_mem c hc')) (bitsPut r c).2 hclean' hshort'
    refine ⟨pad, hpad, ?_⟩
    rw [bitsRun]
    calc bitsLsbFirst ((bitsPut r c).1 ++ (bitsRun (bitsPut r c).2 cs).1)
        = bitsLsbFirst (bitsPut r c).1 ++ (bitsPut r c).2.pending ++ cs.flatMap codeBits ++
            List.replicate pad false := by rw [bitsLsbFirst_append, hrest]; simp
      _ = r.pending ++ (c :: cs).flatMap codeBits ++ List.replicate pad false := by
          rw [hput, List.flatMap_cons]; simp

/-- Settles O43: `BITPACK` starts with an empty accumulator. -/
theorem bitpackUnpacks : Obligations.BitpackUnpacks := by
  intro codes s hcodes
  obtain ⟨pad, hpad, hbits⟩ :=
    bitsLsbFirst_bitsRun codes hcodes { bitacc := 0, bitcnt := 0 } Nat.one_pos (by decide)
  exact ⟨(bitPack codes).1, (bitPack codes).2, pad, rfl, hpad, hbits⟩

end Sys2Proof.Machine
end

section
/-! Decode and encode agree (R71, R97, R98): the `CMD` byte here, the `PHASE` codes by the code table; and
what the two operations without work do. -/

namespace Sys2Proof.Machine

/-! ## The encodings -/

/-- The `CMD` byte of a `WRITE` decodes to it: its fields are those it was put together from (R97). -/
theorem decodeCmd_encode (fmt : BitVec 2) :
    decodeCmd (BitVec.append (0 : BitVec 2) (BitVec.append fmt (1 : BitVec 4))) = .ok (.write fmt) := by
  revert fmt
  decide

/-- The fields `FMT` and `OP` put together are the byte without its ignored bits `v[7:6]` (R97). -/
theorem append_cmdFields (v : Byte) :
    BitVec.append (0 : BitVec 2) (BitVec.append (cmdFmt v) (cmdOp v)) = v &&& 0x3F := by
  revert v
  decide

/-- Only a byte with `OP = 1` decodes to an operation, and that is `WRITE` with its `FMT` (R23, R97). -/
theorem decodeCmd_eq_ok (v : Byte) (i : Instr) :
    decodeCmd v = .ok i ↔ cmdOp v = 1 ∧ i = .write (cmdFmt v) := by
  unfold decodeCmd
  split_ifs with hop
  · simp [hop, eq_comm]
  · simp only [hop, false_and]

/-- The bits of an operation that has a code decode to it (R71, R97, R98). -/
theorem decode_of_encode (i : Instr) (e : Encoded) (h : encode i = some e) : decode e = .ok i := by
  cases i with
  | write fmt => cases h; exact decodeCmd_encode fmt
  | paladd | indexmap | crc32 | chunk | packscan | deflate | lzw | bitpack | subblock => cases h
  | _ => cases h; rfl

/-- A `CMD` byte that decodes to an operation is that operation's code, `v[7:6]` aside (R97). -/
theorem encode_of_decodeCmd (v : Byte) (i : Instr) (hi : decodeCmd v = .ok i) :
    encode i = some (.cmd (v &&& 0x3F)) := by
  obtain ⟨hop, rfl⟩ := (decodeCmd_eq_ok v i).1 hi
  rw [encode, ← hop, append_cmdFields]

/-- Settles O1, one space after the other; the `PHASE` codes are `encode_of_decodePhase`. -/
theorem decodeEncodeAgree : Obligations.DecodeEncodeAgree := by
  refine ⟨decode_of_encode, encode_of_decodePhase, encode_of_decodeCmd, ?_⟩
  intro a i hi
  cases hi
  rfl

/-- Settles O2: the `CMD` bytes by their fields, the other words by the code table. -/
theorem writtenWordsDecode : Obligations.WrittenWordsDecode := by
  refine ⟨?_, ?_, ?_⟩
  · exact (decodeCmd_eq_ok _ _).2 ⟨by decide, by decide⟩
  · exact (decodeCmd_eq_ok _ _).2 ⟨by decide, by decide⟩
  · exact ⟨rfl, rfl, rfl, rfl, rfl, rfl⟩

/-! ## `FINISH` and `IDLE` (R98, R251) -/

/-- `FINISH` moves `STATUS.STATE` and `PHASE` (R251). -/
theorem exec_finish (s : State) : exec .finish s = .next (goto phaseIdle (setRunState .done s)) := rfl

/-- `IDLE` does nothing (R98). -/
theorem exec_idle (s : State) : exec .idle s = .next s := rfl

/-- Settles O8: `phaseIdle` is the code 0x00 (R98). -/
theorem finishAndIdleComplete : Obligations.FinishAndIdleComplete :=
  ⟨exec_finish, exec_idle⟩

end Sys2Proof.Machine
end

section
/-! Chunks and pixel streams (R72, R163, R177): what a reader of chunks finds, and the length of a
sub-frame's stream. -/

namespace Sys2Proof.Machine

/-! ## Reading a chunk back (R72, R182) -/

theorem be32_length (v : BitVec 32) : (be32 v).length = 4 := rfl

/-- The reader of four bytes reads what `be32` writes (R11). -/
theorem readBe32_be32 (v : BitVec 32) (rest : Bytes) : readBe32 (be32 v ++ rest) = v.toNat := by
  have hfields : readBe32 (be32 v ++ rest) =
      ((v.extractLsb' 24 8).toNat * 256 + (v.extractLsb' 16 8).toNat) * 65536 +
        (v.extractLsb' 8 8).toNat * 256 + (v.extractLsb' 0 8).toNat := rfl
  have hv := v.isLt
  simp only [hfields, BitVec.extractLsb'_toNat, Nat.shiftRight_eq_div_pow]
  omega

/-- A reader finds the parts of a chunk whose length field is right and whose CRC is that of type and
data (R72). -/
theorem readChunk_of_parts (len : BitVec 32) (type data crc rest : Bytes)
    (hlen : len.toNat = data.length) (htype : type.length = 4)
    (hcrc : crc = be32 (crc32 (type ++ data))) :
    readChunk (be32 len ++ (type ++ (data ++ (crc ++ rest)))) = some (type, data, rest) := by
  have hcrcLength : crc.length = 4 := by rw [hcrc, be32_length]
  have hread : readBe32 (be32 len ++ (type ++ (data ++ (crc ++ rest)))) = data.length := by
    rw [readBe32_be32, hlen]
  have hfits : 12 + data.length ≤ (be32 len ++ (type ++ (data ++ (crc ++ rest)))).length := by
    simp only [List.length_append, be32_length, htype, hcrcLength]
    omega
  have htypeOn := List.drop_left' (l₂ := type ++ (data ++ (crc ++ rest))) (be32_length len)
  generalize be32 len ++ (type ++ (data ++ (crc ++ rest))) = b at hread hfits htypeOn ⊢
  have hdataOn : b.drop 8 = data ++ (crc ++ rest) := by
    rw [← List.drop_drop (i := 4) (j := 4), htypeOn, List.drop_left' htype]
  have hcrcOn : b.drop (8 + data.length) = crc ++ rest := by
    rw [← List.drop_drop, hdataOn, List.drop_left]
  have hrest : b.drop (12 + data.length) = rest := by
    rw [show 12 + data.length = 8 + data.length + 4 by omega, ← List.drop_drop, hcrcOn,
      List.drop_left' hcrcLength]
  simp only [readChunk, hread, htypeOn, hdataOn, hcrcOn, hrest, List.take_left' htype,
    List.take_left' hcrcLength, List.take_left]
  exact if_pos ⟨hfits, hcrc⟩

/-- Only the low 32 bits of the length go into the length field (log 25). -/
theorem ofNat_mod_two_pow_32 (n : Nat) : BitVec.ofNat 32 (n % 2 ^ 32) = BitVec.ofNat 32 n :=
  BitVec.eq_of_toNat_eq (by simp)

/-- Settles O27: below 2^31 the length field is the length, and `CHUNK` itself looks at no length. -/
theorem chunkReadsBack : Obligations.ChunkReadsBack := by
  refine ⟨fun type data rest hshort => ?_, fun type data s _ => ?_⟩
  · have hlen : (BitVec.ofNat 32 data.length).toNat = data.length :=
      Nat.mod_eq_of_lt (by omega)
    rw [chunkBytes, List.append_assoc, List.append_assoc, List.append_assoc]
    exact readChunk_of_parts _ _ _ _ _ hlen (be32_length type) rfl
  · have hexec : exec (.chunk type data) s = .next (chunk type data s) := rfl
    rw [ofNat_mod_two_pow_32, hexec, chunk, emit, chunkBytes]
    simp only [List.append_assoc]

/-! ## The pixel stream (R177) -/

theorem idxRow_length (f : SubFrame) (y : Nat) : (idxRow f y).length = f.w.toNat := by
  simp [idxRow]

/-- The length of the pixel stream of a sub-frame (R177): each row is a filter byte and its packed bits. -/
theorem packScan_length (f : SubFrame) (d : Nat) (hd : d = 1 ∨ d = 2 ∨ d = 4 ∨ d = 8) :
    (packScan f d).length = f.h.toNat * (1 + (f.w.toNat * d + 7) / 8) := by
  have hrow (y : Nat) :
      (0x00 :: packRow d 0 0 (idxRow f y)).length = 1 + (f.w.toNat * d + 7) / 8 := by
    rw [List.length_cons, packRow_length d hd _ 0 0 (by decide) (Nat.zero_mod d), idxRow_length,
      Nat.zero_add, Nat.add_comm]
  rw [packScan, List.length_flatMap, funext hrow]
  simp

/-- Settles O28: the model's stream is the rows as stated, and each row has the length R177 gives. -/
theorem packscanRows : Obligations.PackscanRows := by
  intro k d s hd
  have hdepth : d.toNat = 1 ∨ d.toNat = 2 ∨ d.toNat = 4 ∨ d.toNat = 8 := by
    obtain rfl | rfl | rfl | rfl := hd <;> decide
  exact ⟨packScan (subFrame s k.toNat) d.toNat, rfl, rfl, packScan_length _ _ hdepth⟩

end Sys2Proof.Machine
end

section
/-! The sizes computed from the palette length (R87, R202, R209): the table size and the minimum code size
come from two loops that go round together, so each size is a function of the minimum code size. -/

namespace Sys2Proof.Machine

/-- The loops of R202 and R209 go round together: doubling `NG = 2^m` is adding 1 to `m`. -/
theorem doubleTo_two_pow (n fuel m : Nat) : doubleTo n fuel (2 ^ m) = 2 ^ growCode n fuel m := by
  induction fuel generalizing m with
  | zero => rfl
  | succ fuel ih =>
    rw [doubleTo, growCode, ← Nat.pow_succ', ih, apply_ite (2 ^ ·)]

/-- `NG = 2^m` (R87, R202, R209). -/
theorem tableSize_eq_two_pow (n : Nat) : tableSize n = 2 ^ minCode n := doubleTo_two_pow n n 2

/-- The loop only grows its variable. -/
theorem le_growCode (n fuel m : Nat) : m ≤ growCode n fuel m := by
  induction fuel generalizing m with
  | zero => exact le_rfl
  | succ fuel ih =>
    rw [growCode]
    split_ifs
    · exact (Nat.le_succ m).trans (ih (m + 1))
    · exact le_rfl

/-- With enough fuel the loop ends because `2^m` has reached `n`. -/
theorem le_two_pow_growCode (n fuel m : Nat) (hfuel : n ≤ 2 ^ (m + fuel)) :
    n ≤ 2 ^ growCode n fuel m := by
  induction fuel generalizing m with
  | zero => exact hfuel
  | succ fuel ih =>
    rw [growCode]
    split_ifs with hless
    · exact ih (m + 1) (by rwa [Nat.succ_add_eq_add_succ])
    · exact Nat.not_lt.1 hless

/-- The loop stands still, or its last round began below `n`. -/
theorem growCode_eq_or_lt (n fuel m : Nat) :
    growCode n fuel m = m ∨ 2 ^ growCode n fuel m < 2 * n := by
  induction fuel generalizing m with
  | zero => exact .inl rfl
  | succ fuel ih =>
    rw [growCode]
    split_ifs with hless
    · obtain heq | hlt := ih (m + 1)
      · rw [heq, Nat.pow_succ']
        exact .inr (Nat.mul_lt_mul_of_pos_left hless Nat.two_pos)
      · exact .inr hlt
    · exact .inl rfl

/-- `SC + 1 = m`, as `m` is at least 2 (R202, R209). -/
theorem sizeCode_succ (n : Nat) : sizeCode n + 1 = minCode n := by
  have hm : 2 ≤ minCode n := le_growCode n n 2
  rw [sizeCode, tableSize_eq_two_pow, Nat.log2_two_pow]
  omega

/-- Settles O39: all three sizes are read off `m`. -/
theorem tableSizesAgree : Obligations.TableSizesAgree := by
  intro n
  have hn : n ≤ 2 ^ (2 + n) := (Nat.le_add_left n 2).trans Nat.lt_two_pow_self.le
  rw [sizeCode_succ, tableSize_eq_two_pow]
  refine ⟨le_two_pow_growCode n n 2 hn, ?_, ?_, rfl, rfl⟩
  · exact Nat.pow_le_pow_right Nat.two_pos (le_growCode n n 2)
  · exact (growCode_eq_or_lt n n 2).imp_left (congrArg (2 ^ ·))

end Sys2Proof.Machine
end

section
/-! Sub-blocks (R91, R215): `SUBBLOCK` fills a buffer byte by byte where its rule cuts the bytes into
blocks; the two agree, and the length and the reader are settled of the rule. -/

namespace Sys2Proof.Machine

theorem subBlockRule_nil (fuel : Nat) : subBlockRule fuel [] = [0x00] := by
  cases fuel <;> rfl

/-- The rule cuts a block off where it is full or the bytes end (R215). -/
theorem subBlockRule_block (fuel : Nat) (block rest : Bytes) (hne : block ≠ [])
    (hcut : block.length = 255 ∨ block.length < 255 ∧ rest = []) :
    subBlockRule (fuel + 1) (block ++ rest) =
      byteOf block.length :: (block ++ subBlockRule fuel rest) := by
  rw [subBlockRule, if_neg (by simp [hne])]
  obtain hfull | ⟨hshort, rfl⟩ := hcut
  · rw [← hfull, List.take_left, List.drop_left, List.length_append, Nat.min_eq_left (by omega)]
  · rw [List.append_nil, List.take_of_length_le hshort.le, List.drop_of_length_le hshort.le,
      Nat.min_eq_right hshort.le]

/-- Bytes that are not empty are a block and the rest. -/
theorem exists_block (b : Bytes) (hne : b ≠ []) :
    ∃ block rest, b = block ++ rest ∧ block ≠ [] ∧
      (block.length = 255 ∨ block.length < 255 ∧ rest = []) := by
  refine ⟨b.take 255, b.drop 255, (List.take_append_drop 255 b).symm, by simpa using hne, ?_⟩
  rw [List.length_take, List.drop_eq_nil_iff]
  omega

/-- `BLKLEN` counts the bytes of `BLK`, and the buffer is not full. -/
def BlkRegs.Filling (r : BlkRegs) : Prop := r.blklen.toNat = r.blk.length ∧ r.blk.length < 255

/-- A byte put into the buffer fills it, and the block goes out. -/
theorem blkPut_of_full (r : BlkRegs) (b : Byte) (hr : r.Filling) (hfull : r.blk.length + 1 = 255) :
    blkPut r b = (byteOf 255 :: (r.blk ++ [b]), { blk := [], blklen := 0 }) := by
  obtain ⟨hlen, -⟩ := hr
  have hcount : r.blklen + 1 = 255 := by bv_omega
  rw [blkPut, if_pos hcount, hcount]
  rfl

/-- A byte put into the buffer leaves room for another. -/
theorem blkPut_of_room (r : BlkRegs) (b : Byte) (hr : r.Filling) (hroom : r.blk.length + 1 < 255) :
    blkPut r b = ([], { blk := r.blk ++ [b], blklen := r.blklen + 1 }) ∧
      BlkRegs.Filling { blk := r.blk ++ [b], blklen := r.blklen + 1 } := by
  obtain ⟨hlen, -⟩ := hr
  have hcount : (r.blklen + 1).toNat = r.blk.length + 1 := by bv_omega
  refine ⟨if_neg fun h => ?_, ?_, ?_⟩
  · rw [h] at hcount
    exact hroom.ne hcount.symm
  · simpa using hcount
  · simpa using hroom

/-- `SUBBLOCK` from a buffer being filled writes what the rule writes for the bytes of the buffer and
those to come (R215), and leaves the buffer empty. -/
theorem blkRun_eq_rule (bs : Bytes) (r : BlkRegs) (hr : r.Filling) (fuel : Nat)
    (hfuel : r.blk.length + bs.length ≤ fuel) :
    blkRun r bs = (subBlockRule fuel (r.blk ++ bs), { blk := [], blklen := 0 }) := by
  induction bs generalizing r fuel with
  | nil =>
    obtain ⟨hlen, hroom⟩ := hr
    rw [blkRun]
    by_cases hempty : r.blk = []
    · have hzero : r.blklen = 0 := BitVec.eq_of_toNat_eq (by simpa [hempty] using hlen)
      rw [if_pos hzero, hempty, List.nil_append, List.nil_append, subBlockRule_nil]
    · have hpos := List.length_pos_iff.2 hempty
      have hcount : r.blklen ≠ 0 := fun h => by rw [h] at hlen; exact hpos.ne hlen
      have hbyte : byteOf r.blk.length = r.blklen := by
        rw [← hlen, byteOf, BitVec.ofNat_toNat, BitVec.setWidth_eq]
      obtain ⟨fuel, rfl⟩ := Nat.exists_eq_add_of_le' (show 1 ≤ fuel by omega)
      rw [if_neg hcount, subBlockRule_block fuel r.blk [] hempty (.inr ⟨hroom, rfl⟩), subBlockRule_nil,
        hbyte, List.cons_append]
  | cons b bs ih =>
    rw [List.length_cons] at hfuel
    have hjoin : r.blk ++ b :: bs = (r.blk ++ [b]) ++ bs := by simp
    rw [blkRun, hjoin]
    by_cases hfull : r.blk.length + 1 = 255
    · obtain ⟨fuel, rfl⟩ := Nat.exists_eq_add_of_le' (show 1 ≤ fuel by omega)
      have hblock : (r.blk ++ [b]).length = 255 := by simpa using hfull
      have hrest := ih { blk := [], blklen := 0 } ⟨rfl, by decide⟩ fuel (by simp; omega)
      rw [blkPut_of_full r b hr hfull, hrest, subBlockRule_block fuel _ bs (by simp) (.inl hblock),
        hblock]
      rfl
    · obtain ⟨hput, hr'⟩ := blkPut_of_room r b hr (by have := hr.2; omega)
      rw [hput, ih _ hr' fuel (by simp; omega)]
      rfl

/-- `SUBBLOCK` starts with an empty buffer. -/
theorem subBlock_eq_rule (bytes : Bytes) :
    subBlock bytes = (subBlockRule bytes.length bytes, { blk := [], blklen := 0 }) :=
  blkRun_eq_rule bytes { blk := [], blklen := 0 } ⟨rfl, by decide⟩ bytes.length (by simp)

/-- One length byte for each block begun, and the terminator (R215). -/
theorem subBlockRule_length (fuel : Nat) (b : Bytes) (hfuel : b.length ≤ fuel) :
    (subBlockRule fuel b).length = b.length + (b.length + 254) / 255 + 1 := by
  induction fuel generalizing b with
  | zero => simp [List.length_eq_zero_iff.1 (Nat.le_zero.1 hfuel), subBlockRule]
  | succ fuel ih =>
    by_cases hb : b = []
    · simp [hb, subBlockRule_nil]
    · obtain ⟨block, rest, rfl, hne, hcut⟩ := exists_block b hb
      have hpos := List.length_pos_iff.2 hne
      rw [List.length_append] at hfuel
      rw [subBlockRule_block fuel block rest hne hcut, List.length_cons, List.length_append,
        ih rest (by omega), List.length_append]
      obtain hfull | ⟨hshort, rfl⟩ := hcut
      · omega
      · rw [List.length_nil]
        omega

/-- The reader takes a block of at most 255 bytes off after its length byte (R91). -/
theorem readSubBlocks_block (fuel : Nat) (block tail : Bytes) (hne : block ≠ [])
    (hle : block.length ≤ 255) :
    readSubBlocks (fuel + 1) (byteOf block.length :: (block ++ tail)) =
      (readSubBlocks fuel tail).map fun p => (block ++ p.1, p.2) := by
  have hpos := List.length_pos_iff.2 hne
  have hlen : (byteOf block.length).toNat = block.length := by simp [byteOf]; omega
  have hzero : byteOf block.length ≠ 0 := fun h => by rw [h] at hlen; exact hpos.ne hlen
  rw [readSubBlocks, if_neg hzero, hlen, if_neg (by simp), List.drop_left, List.take_left]
  cases readSubBlocks fuel tail <;> rfl

/-- The reader finds again what the rule writes, and stops at the terminator (R91, R215). -/
theorem readSubBlocks_rule (fuel : Nat) (b rest : Bytes) (hfuel : b.length ≤ fuel) :
    readSubBlocks (fuel + 1) (subBlockRule fuel b ++ rest) = some (b, rest) := by
  induction fuel generalizing b with
  | zero => rw [List.length_eq_zero_iff.1 (Nat.le_zero.1 hfuel)]; rfl
  | succ fuel ih =>
    by_cases hb : b = []
    · rw [hb, subBlockRule_nil]; rfl
    · obtain ⟨block, more, rfl, hne, hcut⟩ := exists_block b hb
      have hpos := List.length_pos_iff.2 hne
      rw [List.length_append] at hfuel
      rw [subBlockRule_block fuel block more hne hcut, List.cons_append, List.append_assoc,
        readSubBlocks_block _ _ _ hne (by omega), ih more (by omega)]
      rfl

/-- Settles O44: the loop is the rule, and the rule has the length and reads back. -/
theorem subblockFollowsItsRule : Obligations.SubblockFollowsItsRule := by
  intro bytes s
  have hexec : exec (.subblock bytes) s = execSubblock bytes s := rfl
  refine ⟨subBlockRule bytes.length bytes, ?_, rfl, subBlockRule_length _ bytes le_rfl,
    fun rest => readSubBlocks_rule _ bytes rest le_rfl⟩
  rw [hexec, execSubblock, subBlock_eq_rule]

end Sys2Proof.Machine
end

section
/-! `ATTRDEC` and `PIXSEL` (R110 to R115): the colours that a byte decodes to do not look at FLASH, and what
each mode selects. -/

namespace Sys2Proof.Machine

/-! ## `ATTRDEC` (R110 to R112) -/

/-- No colour field stands for transparent: the colour numbers of R110 start at 1. -/
theorem fieldColour_ne_zero (bright : Bool) (c3 : BitVec 3) : fieldColour bright c3 ≠ 0 := by
  revert bright c3
  decide

/-- Bits 0 to 6, all that a colour is made of, are kept when FLASH is cleared. -/
theorem getLsbD_clearFlash (a : Byte) (i : Nat) (hi : i < 7) : (a &&& 0x7F).getLsbD i = a.getLsbD i := by
  have hmask : (0x7F : Byte).getLsbD i = true := by
    interval_cases i <;> rfl
  rw [BitVec.getLsbD_and, hmask, Bool.and_true]

theorem attrInk3_clearFlash (a : Byte) : attrInk3 (a &&& 0x7F) = attrInk3 a := by
  apply BitVec.eq_of_getLsbD_eq
  intro i hi
  simp only [attrInk3, BitVec.getLsbD_extractLsb', getLsbD_clearFlash a (0 + i) (by omega)]

theorem attrPaper3_clearFlash (a : Byte) : attrPaper3 (a &&& 0x7F) = attrPaper3 a := by
  apply BitVec.eq_of_getLsbD_eq
  intro i hi
  simp only [attrPaper3, BitVec.getLsbD_extractLsb', getLsbD_clearFlash a (3 + i) (by omega)]

theorem attrBright_clearFlash (a : Byte) : attrBright (a &&& 0x7F) = attrBright a :=
  getLsbD_clearFlash a 6 (by decide)

/-- The colour of a field, by the number of the byte without FLASH. -/
theorem attrColour_eq (a lo : Nat) :
    attrColour a lo =
      if 64 ≤ a % 128 then (if a / 2 ^ lo % 8 = 0 then 1 else 8 + a / 2 ^ lo % 8)
      else 1 + a / 2 ^ lo % 8 := by
  have hbright : a / 64 % 2 = 1 ↔ 64 ≤ a % 128 := by omega
  simp only [attrColour, hbright]

/-- What `ATTRDEC` alone leaves, by the colours and the flashing bit that the byte's number gives. -/
theorem exec_attrdec (a : Byte) (s : State) :
    exec (.attrdec a) s = .next { s with
      fout := .attr (BitVec.ofNat 4 (attrColour a.toNat 3)) (BitVec.ofNat 4 (attrColour a.toNat 0))
        (decide (a.toNat / 128 = 1 ∧ attrColour a.toNat 3 ≠ attrColour a.toNat 0)) } := by
  rw [← attrDec_paper, ← attrDec_ink, ← attrDec_flashing]
  rfl

/-- Settles O10: the colours come from bits 0 to 6 and start at 1; the 16 steady bytes are counted. -/
theorem attrdecDecodesEveryByte : Obligations.AttrdecDecodesEveryByte := by
  refine ⟨fun a => ⟨fieldColour_ne_zero _ _, fieldColour_ne_zero _ _, ?_, ?_⟩, by decide +kernel, ?_⟩
  · simp only [attrDec, attrBright_clearFlash, attrPaper3_clearFlash]
  · simp only [attrDec, attrBright_clearFlash, attrInk3_clearFlash]
  · intro a s
    have hflash : a.toNat / 128 = 1 ↔ 128 ≤ a.toNat := by omega
    rw [exec_attrdec]
    simp only [attrColour_eq, hflash, Nat.pow_zero, Nat.div_one, Nat.reducePow]

/-! ## `PIXSEL` (R113 to R115) -/

/-- Where the ink bit is 1 and the mask bit 0, OR-AND shows paper and AND-OR ink; elsewhere both masked
modes test the one bit that decides. -/
theorem pixselOrand_ne_pixselAndor (inkBit maskBit : Bool) (paper ink : ColourNo) (h : paper ≠ ink) :
    pixselOrand inkBit maskBit paper ink ≠ pixselAndor inkBit maskBit paper ink ↔
      inkBit = true ∧ maskBit = false := by
  cases inkBit <;> cases maskBit <;> simp [pixselOrand, pixselAndor, h]

/-- Settles O11: the two bits decide each result. -/
theorem pixselReturnsByMode : Obligations.PixselReturnsByMode := by
  refine ⟨pixselOrand_ne_pixselAndor, fun inkBit maskBit paper ink s => ⟨?_, ?_, ?_⟩⟩
  · cases inkBit <;> rfl
  · cases maskBit
    · rfl
    · cases inkBit <;> rfl
  · cases inkBit
    · cases maskBit <;> rfl
    · rfl

end Sys2Proof.Machine
end

section
/-! `VALIDATE` (R116, R264): the checks of one frame against the input contract, and the first failing
frame of a list. -/

namespace Sys2Proof.Machine

theorem zeroSize_iff (f : FrameDesc) :
    zeroSize f = true ↔ f.rows = 0 ∨ f.cols = 0 ∨ f.scale = 0 ∨ f.cropW = 0 ∨ f.cropH = 0 := by
  simp [zeroSize, or_assoc]

theorem cropOutside_iff (f : FrameDesc) :
    cropOutside f = true ↔
      8 * f.scale.toNat * f.cols.toNat < f.cropX.toNat + f.cropW.toNat ∨
        8 * f.scale.toNat * f.rows.toNat < f.cropY.toNat + f.cropH.toNat := by
  simp [cropOutside]

/-- A frame that meets the contract raises nothing. -/
theorem frameError_of_frameOk {f : FrameDesc} (h : FrameOk f) : frameError f = none := by
  obtain ⟨hrows, hcols, hscale, hw, hh, hx, hy⟩ := h
  have hzero : ¬ zeroSize f = true := by
    rw [zeroSize_iff]
    bv_omega
  have hcrop : ¬ cropOutside f = true := by
    rw [cropOutside_iff]
    omega
  rw [frameError, if_neg hzero, if_neg hcrop]

/-- Frames that meet the contract are passed over. -/
theorem firstError_append (c : Control) (xs ys : List Nat) (h : ∀ j ∈ xs, FrameOk (frameDesc c j)) :
    firstError c (xs ++ ys) = firstError c ys := by
  induction xs with
  | nil => rfl
  | cons j xs ih =>
    rw [List.cons_append, firstError, frameError_of_frameOk (h j List.mem_cons_self)]
    exact ih fun k hk => h k (List.mem_cons_of_mem _ hk)

/-- The frame count is in order, so the frames decide. -/
theorem validateError_of_count {nfMax : Nat} {c : Control} (hpos : 1 ≤ c.nframes.toNat)
    (hmax : c.nframes.toNat ≤ nfMax) :
    validateError nfMax c = firstError c (List.range c.nframes.toNat) := by
  refine if_neg ?_
  rintro (h | h)
  · simp [h] at hpos
  · omega

/-- Every frame meets the contract. -/
theorem firstError_range_of_frameOk (c : Control) (n : Nat)
    (h : ∀ i, i < n → FrameOk (frameDesc c i)) : firstError c (List.range n) = none := by
  have hall := firstError_append c (List.range n) [] fun j hj => h j (List.mem_range.1 hj)
  rwa [List.append_nil] at hall

/-- The first frame that fails is the one that is raised. -/
theorem firstError_range_of_fails (c : Control) (n i : Nat) (e : BitVec 4) (hi : i < n)
    (hbefore : ∀ j, j < i → FrameOk (frameDesc c j)) (he : frameError (frameDesc c i) = some e) :
    firstError c (List.range n) = some (e, i) := by
  obtain ⟨k, rfl⟩ := Nat.exists_eq_add_of_lt hi
  rw [Nat.add_assoc, List.range_add, firstError_append c _ _ fun j hj => hbefore j (List.mem_range.1 hj),
    List.range_succ_eq_map, List.map_cons, firstError, Nat.add_zero, he]

/-- An error of `VALIDATE` is raised with the frame it is of. -/
theorem exec_validate_of_error (s : State) (e : BitVec 4) (i : Nat)
    (h : validateError s.par.nfMax.toNat s.ctl = some (e, i)) :
    exec .validate s = .next (raiseError e (BitVec.ofNat 8 i) s) := by
  change execValidate s = _
  rw [execValidate, h]

/-- Without an error the frames are rasterised, from frame 0. -/
theorem exec_validate_of_pass (s : State) (hpos : 1 ≤ s.ctl.nframes.toNat)
    (h : validateError s.par.nfMax.toNat s.ctl = none) :
    exec .validate s = .next (gotoFrame phaseRaster 0 s) := by
  change execValidate s = _
  rw [execValidate, h]
  exact congrArg _ (if_pos hpos)

/-- Settles O12: the count first, then the first frame that fails, its zero-size test before its crop
test. -/
theorem validateChecksContract : Obligations.ValidateChecksContract := by
  intro s n
  refine ⟨fun hcount => ?_, fun hpos hmax => ?_⟩
  · have hbad : s.ctl.nframes = 0 ∨ s.par.nfMax.toNat < s.ctl.nframes.toNat :=
      hcount.imp_left BitVec.eq_of_toNat_eq
    exact exec_validate_of_error s eZero 0 (if_pos hbad)
  have hframes := validateError_of_count hpos hmax
  refine ⟨fun hall => ?_, fun i hi hbefore => ?_⟩
  · rw [firstError_range_of_frameOk s.ctl _ hall] at hframes
    exact exec_validate_of_pass s hpos hframes
  intro f
  refine ⟨fun hzero => ?_, fun hrows hcols hscale hw hh hcrop => ?_⟩
  · have he : frameError f = some eZero := if_pos ((zeroSize_iff f).2 hzero)
    rw [firstError_range_of_fails s.ctl _ i eZero hi hbefore he] at hframes
    exact exec_validate_of_error s eZero i hframes
  · have hsize : ¬ zeroSize f = true := by
      rw [zeroSize_iff]
      simp only [hrows, hcols, hscale, hw, hh, or_self, not_false_eq_true]
    have he : frameError f = some eCrop := by
      rw [frameError, if_neg hsize, if_pos ((cropOutside_iff f).2 hcrop)]
    rw [firstError_range_of_fails s.ctl _ i eCrop hi hbefore he] at hframes
    exact exec_validate_of_error s eCrop i hframes

end Sys2Proof.Machine
end

section
/-! The spans of R118: a grid position lies in the span of the source position it shows, and in no other. -/

namespace Sys2Proof.Machine

/-- Settles O13: to lie between `p * s` and `(p + 1) * s` is to have quotient `p`. -/
theorem spansPartitionTheGrid : Obligations.SpansPartitionTheGrid := by
  intro s x0 w x p hs hx
  have hquot : p = (x0 + x) / s ↔ p * s ≤ x0 + x ∧ x0 + x < (p + 1) * s := by
    rw [eq_comm, Nat.div_eq_iff hs, Nat.succ_mul]
    omega
  rw [hquot]
  unfold spanLo spanHi
  omega

/-- A span ends inside the crop. -/
theorem spanHi_le (p s x0 w : Nat) : spanHi p s x0 w ≤ w := by
  unfold spanHi
  omega

/-- A source position has a span exactly if some position of the crop shows it. -/
theorem spanLo_lt_spanHi_iff (p s x0 w : Nat) (hs : 0 < s) :
    spanLo p s x0 < spanHi p s x0 w ↔ ∃ x, x < w ∧ (x0 + x) / s = p := by
  constructor
  · intro h
    have hw : spanLo p s x0 < w := Nat.lt_of_lt_of_le h (spanHi_le p s x0 w)
    exact ⟨_, hw, ((spansPartitionTheGrid s x0 w _ p hs hw).1 ⟨le_rfl, h⟩).symm⟩
  · rintro ⟨x, hx, rfl⟩
    exact spanLo_lt_spanHi_of_shown s x0 w x hs hx

end Sys2Proof.Machine
end

section
/-! What a `RASTER` answers (R120, R250): the state after a frame that was rasterised, and, without flashing,
the two equal grids that it leaves. -/

namespace Sys2Proof.Machine

/-! ## The table of the frame sets (R39) -/

/-- Setting an entry of the table changes what that entry reads as, and no other. -/
theorem getD_tableSet (l : List FrameSet) (i j : Nat) (v : FrameSet) :
    (tableSet l i v).getD j FrameSet.blank = if j = i then v else l.getD j FrameSet.blank := by
  simp only [tableSet, List.getD_eq_getElem?_getD, List.getElem?_set, List.length_append,
    List.length_replicate]
  by_cases hji : j = i
  · have hlen : i < l.length + (i + 1 - l.length) := by omega
    simp [hji, hlen]
  · rw [if_neg (Ne.symm hji), if_neg hji]
    by_cases hj : j < l.length
    · rw [List.getElem?_append_left hj]
    · rw [List.getElem?_append_right (Nat.not_lt.1 hj), List.getElem?_replicate,
        List.getElem?_eq_none (Nat.not_lt.1 hj)]
      split_ifs <;> rfl

/-! ## The state after a `RASTER` -/

/-- The state after a `RASTER` that left `g`. -/
def rastered (s : State) (g : RasterRegs) : State :=
  rasterLoop (s.pc.fi.toNat + 1) { s with pl := g.pl, sets := tableSet s.sets s.pc.fi.toNat g.set }

theorem exec_raster_of_ok (s : State) (g : RasterRegs)
    (h : rasterFrame s (frameDesc s.ctl s.pc.fi.toNat) (frameSet s s.pc.fi.toNat) = .ok g) :
    exec .raster s = .next (rastered s g) := by
  change execRaster s = _
  rw [execRaster, h]
  rfl

/-- A `RASTER` that answers a next state rasterised its frame or raised F_PALETTE. -/
theorem exec_raster_cases (s t : State) (h : exec .raster s = .next t) :
    (∃ g, rasterFrame s (frameDesc s.ctl s.pc.fi.toNat) (frameSet s s.pc.fi.toNat) = .ok g ∧
        t = rastered s g) ∨ ∃ c, t = raiseFault c s := by
  obtain h | ⟨c, -, rfl⟩ := (Flow.toOutcome_eq_next _ _ _).1 h
  · obtain ⟨g, hg, h⟩ := (Flow.andThen_eq_ok _ _ _).1 h
    cases h
    exact .inl ⟨g, hg, rfl⟩
  · exact .inr ⟨c, rfl⟩

theorem rastered_pl (s : State) (g : RasterRegs) : (rastered s g).pl = g.pl := by
  rw [rastered, rasterLoop_eq]

theorem frameSet_rastered (s : State) (g : RasterRegs) (j : Nat) :
    frameSet (rastered s g) j = if j = s.pc.fi.toNat then g.set else frameSet s j := by
  rw [rastered, rasterLoop_eq]
  exact getD_tableSet s.sets s.pc.fi.toNat j g.set

/-! ## Without flashing (R125 (d)) -/

/-- A frame set without a flash box, and with the steady grid for its alternate grid. -/
def FrameSet.NoFlash (b : FrameSet) : Prop := b.boxv = false ∧ b.alt = b.steady

/-- Painting the same colour into both grids, and no flashing, keeps them equal and adds no box. -/
theorem noFlash_paintSpan (f : FrameDesc) (sx sy : Nat) (d : ColourNo) (b : FrameSet) (h : b.NoFlash) :
    (paintSpan f sx sy false d d b).NoFlash := by
  obtain ⟨hbox, halt⟩ := h
  exact ⟨hbox, congrArg (gridPaint · _ _ _ _ d) halt⟩

/-- What a pixel that completes leaves of the frame set, whatever `PALADD` did. -/
theorem rasterPixel_set (ctl : Control) (f : FrameDesc) (useFlash : Bool) (r : Bytes) (cr cc : Nat)
    (g g' : RasterRegs) (p : Nat × Nat) (h : rasterPixel ctl f useFlash r cr cc g p = .ok g') :
    g'.set = g.set ∨
      g'.set = paintSpan f (8 * cc + p.2) (8 * cr + p.1) (cellFlashing useFlash r)
        (pixelColours f useFlash r p.1 p.2).1 (pixelColours f useFlash r p.1 p.2).2 g.set := by
  unfold rasterPixel at h
  dsimp only at h
  split at h
  · obtain ⟨pl1, -, h⟩ := (Flow.andThen_eq_ok _ _ _).1 h
    obtain ⟨pl2, -, h⟩ := (Flow.andThen_eq_ok _ _ _).1 h
    cases h
    exact .inr rfl
  · cases h
    exact .inl rfl

/-- With `USE_FLASH = 0` no cell flashes, so each pixel's two colours are its `display`. -/
theorem noFlash_rasterPixel (ctl : Control) (f : FrameDesc) (r : Bytes) (cr cc : Nat) (g g' : RasterRegs)
    (p : Nat × Nat) (hg : g.set.NoFlash) (h : rasterPixel ctl f false r cr cc g p = .ok g') :
    g'.set.NoFlash := by
  have hfl : cellFlashing false r = false := Bool.and_false _
  have halt : (pixelColours f false r p.1 p.2).2 = (pixelColours f false r p.1 p.2).1 := by
    simp [pixelColours]
  obtain hset | hset := rasterPixel_set ctl f false r cr cc g g' p h
  · exact hset ▸ hg
  · rw [hset, hfl, halt]
    exact noFlash_paintSpan f _ _ _ _ hg

theorem noFlash_rasterCell (size : Nat) (mem : Memory) (ctl : Control) (f : FrameDesc) (g g' : RasterRegs)
    (c : Nat × Nat) (hg : g.set.NoFlash) (h : rasterCell size mem ctl f false g c = .ok g') :
    g'.set.NoFlash := by
  unfold rasterCell at h
  split_ifs at h
  · split at h
    · cases h
    · exact Flow.loop_invariant _ (fun g => g.set.NoFlash) _ _ _
        (fun a p a' _ ha hp => noFlash_rasterPixel ctl f _ _ _ a a' p ha hp) hg h
  · cases h
    exact hg

/-- The frame set begins without a box and with equal grids, and every cell keeps it so. -/
theorem noFlash_rasterFrame (s : State) (f : FrameDesc) (old : FrameSet) (g : RasterRegs)
    (huse : s.flg.useFlash = false) (h : rasterFrame s f old = .ok g) : g.set.NoFlash := by
  rw [rasterFrame, huse] at h
  exact Flow.loop_invariant _ (fun g => g.set.NoFlash) _ _ _
    (fun a c a' _ ha hc => noFlash_rasterCell _ _ _ f a a' c ha hc) ⟨rfl, rfl⟩ h

/-- Settles O17: no pixel adds to the box or tells the grids apart; F_PALETTE would set `STATUS.FAULT`. -/
theorem noFlashNoBox : Obligations.NoFlashNoBox := by
  intro s t huse _ h hfault
  obtain ⟨g, hg, rfl⟩ | ⟨c, rfl⟩ := exec_raster_cases s t h
  · rw [frameSet_rastered, if_pos rfl]
    exact noFlash_rasterFrame s _ _ g huse hg
  · exact absurd hfault (by simp)

end Sys2Proof.Machine
end

section
/-! `RASTER` of a readable frame as a plain loop over its source pixels (R120): no pass stops, a cell that
nothing shows adds nothing, and each pixel does what the bytes of its record say. -/

namespace Sys2Proof.Machine

/-- A loop whose passes all complete, under an invariant that they keep, is a fold. -/
theorem Flow.loop_eq_foldl {α β : Type} (f : α → β → Flow α) (g : α → β → α) (P : α → Prop) (bs : List β)
    (a : α) (ha : P a) (pass : ∀ a b, b ∈ bs → P a → f a b = .ok (g a b) ∧ P (g a b)) :
    Flow.loop f a bs = .ok (bs.foldl g a) ∧ P (bs.foldl g a) := by
  induction bs generalizing a with
  | nil => exact ⟨rfl, ha⟩
  | cons b bs ih =>
    obtain ⟨hfirst, hkeep⟩ := pass a b List.mem_cons_self ha
    rw [Flow.loop, hfirst]
    exact ih _ hkeep fun a b hb => pass a b (List.mem_cons_of_mem _ hb)

/-! ## `PALADD` on registers that it built (R141, R142) -/

/-- `PALADD` completes as the rule says, and keeps the registers so. -/
theorem palAdd_eq_addColour (ctl : Control) (p : PaletteRegs) (c : ColourNo) (h : PaletteOk ctl p) :
    palAdd ctl p c = .ok (addColour ctl p c) ∧ PaletteOk ctl (addColour ctl p c) := by
  have hmeets := palAdd_meets ctl p c h
  have heq : palAdd ctl p c = .ok (addColour ctl p c) := by
    unfold addColour
    obtain ⟨hc, heq⟩ | ⟨hc, hin, heq⟩ | ⟨-, -, -, heq⟩ | ⟨hc, hnew, -, heq⟩ := palAdd_cases ctl p c
    · rw [heq, if_pos hc]
    · rw [heq, if_neg hc, if_pos hin]
    · rw [heq] at hmeets
      exact hmeets.elim
    · rw [heq, if_neg hc, if_neg hnew]
  rw [heq] at hmeets
  exact ⟨heq, hmeets⟩

/-- `PALADD` only appends to `PLIST`. -/
theorem plist_addColour (ctl : Control) (p : PaletteRegs) (c : ColourNo) :
    p.plist <+: (addColour ctl p c).plist := by
  unfold addColour
  split_ifs
  · exact List.prefix_rfl
  · exact List.prefix_rfl
  · exact List.prefix_append _ _

theorem plist_foldl_addColour (ctl : Control) (cs : List ColourNo) (p : PaletteRegs) :
    p.plist <+: (cs.foldl (addColour ctl) p).plist := by
  induction cs generalizing p with
  | nil => exact List.prefix_rfl
  | cons c cs ih => exact (plist_addColour ctl p c).trans (ih _)

/-! ## The source pixels in the order of the loops (R120) -/

/-- The source pixels, each (row, column), of the cell in row `c.1` and column `c.2`. -/
def cellPixels (c : Nat × Nat) : List (Nat × Nat) :=
  (pairs 8 8).map fun p => (8 * c.1 + p.1, 8 * c.2 + p.2)

/-- All the source pixels of a frame. -/
def framePixels (f : FrameDesc) : List (Nat × Nat) := (pairs f.rows.toNat f.cols.toNat).flatMap cellPixels

theorem mem_cellPixels (c q : Nat × Nat) : q ∈ cellPixels c ↔ q.1 / 8 = c.1 ∧ q.2 / 8 = c.2 := by
  simp only [cellPixels, List.mem_map, Prod.exists, mem_pairs]
  constructor
  · rintro ⟨py, px, ⟨hy, hx⟩, rfl⟩
    exact ⟨by omega, by omega⟩
  · rintro ⟨hy, hx⟩
    exact ⟨q.1 % 8, q.2 % 8, ⟨by omega, by omega⟩, Prod.ext (by dsimp only; omega) (by dsimp only; omega)⟩

theorem mem_framePixels (f : FrameDesc) (q : Nat × Nat) :
    q ∈ framePixels f ↔ q.1 / 8 < f.rows.toNat ∧ q.2 / 8 < f.cols.toNat := by
  simp only [framePixels, List.mem_flatMap, mem_cellPixels, Prod.exists, mem_pairs]
  constructor
  · rintro ⟨cr, cc, ⟨hr, hc⟩, rfl, rfl⟩
    exact ⟨hr, hc⟩
  · rintro ⟨hr, hc⟩
    exact ⟨_, _, ⟨hr, hc⟩, rfl, rfl⟩

/-! ## What is visited (R118) -/

/-- The source pixel that a grid element shows (R117). -/
def shownPixel (f : FrameDesc) (y x : Nat) : Nat × Nat := (sourceY f y, sourceX f x)

/-- Whether a source pixel has a grid element (R118). -/
def pixelVisible (f : FrameDesc) (q : Nat × Nat) : Bool := visibleX f q.2 && visibleY f q.1

theorem columnShown_eq (f : FrameDesc) (p : Nat) (hscale : 0 < f.scale.toNat) :
    columnShown f p = visibleX f p := by
  rw [Bool.eq_iff_iff, visibleX, decide_eq_true_iff, spanLo_lt_spanHi_iff _ _ _ _ hscale]
  simp only [columnShown, List.any_eq_true, List.mem_range, decide_eq_true_eq]
  rfl

theorem rowShown_eq (f : FrameDesc) (p : Nat) (hscale : 0 < f.scale.toNat) :
    rowShown f p = visibleY f p := by
  rw [Bool.eq_iff_iff, visibleY, decide_eq_true_iff, spanLo_lt_spanHi_iff _ _ _ _ hscale]
  simp only [rowShown, List.any_eq_true, List.mem_range, decide_eq_true_eq]
  rfl

/-- The visited pixels are those that a grid element shows. -/
theorem pixelVisible_iff (f : FrameDesc) (q : Nat × Nat) (hscale : 0 < f.scale.toNat) :
    pixelVisible f q = true ↔
      ∃ y x, y < f.cropH.toNat ∧ x < f.cropW.toNat ∧ shownPixel f y x = q := by
  rw [pixelVisible, Bool.and_eq_true, visibleX, visibleY, decide_eq_true_iff, decide_eq_true_iff,
    spanLo_lt_spanHi_iff _ _ _ _ hscale, spanLo_lt_spanHi_iff _ _ _ _ hscale]
  constructor
  · rintro ⟨⟨x, hx, hqx⟩, ⟨y, hy, hqy⟩⟩
    exact ⟨y, x, hy, hx, Prod.ext hqy hqx⟩
  · rintro ⟨y, x, hy, hx, rfl⟩
    exact ⟨⟨x, hx, rfl⟩, ⟨y, hy, rfl⟩⟩

/-- A cell is visited exactly if one of its pixels is. -/
theorem cellVisited_iff (f : FrameDesc) (c : Nat × Nat) :
    cellVisited f c.1 c.2 = true ↔ ∃ q ∈ cellPixels c, pixelVisible f q = true := by
  constructor
  · intro h
    simp only [cellVisited, Bool.and_eq_true, List.any_eq_true, List.mem_range] at h
    obtain ⟨⟨px, hpx, hx⟩, ⟨py, hpy, hy⟩⟩ := h
    exact ⟨(8 * c.1 + py, 8 * c.2 + px), (mem_cellPixels _ _).2 ⟨by dsimp only; omega, by dsimp only; omega⟩,
      by rw [pixelVisible, hx, hy]; rfl⟩
  · rintro ⟨q, hq, hvisible⟩
    obtain ⟨hrow, hcol⟩ := (mem_cellPixels c q).1 hq
    rw [pixelVisible, Bool.and_eq_true] at hvisible
    obtain ⟨hx, hy⟩ := hvisible
    rw [← hrow, ← hcol]
    exact cellVisited_of_visible f q.1 q.2 hy hx

/-- The record of a visited cell can be read. -/
theorem CellsReadable.read {s : State} {f : FrameDesc} (h : CellsReadable s f) (hscale : 0 < f.scale.toNat)
    (c : Nat × Nat) (hvisited : cellVisited f c.1 c.2 = true) :
    ∃ r, memReadBytes s.par.cellMemSize s.mem (cellAddr f c.1 c.2) 18 = .ok r := by
  obtain ⟨q, hq, hvisible⟩ := (cellVisited_iff f c).1 hvisited
  obtain ⟨hrow, hcol⟩ := (mem_cellPixels c q).1 hq
  obtain ⟨y, x, hy, hx, rfl⟩ := (pixelVisible_iff f q hscale).1 hvisible
  refine memReadBytes_exists _ _ _ _ fun i hi => ?_
  have hbyte := h y x i hy hx hi
  rw [recordAddr_eq_cellAddr] at hbyte
  rwa [← hrow, ← hcol]

/-! ## One pass (R119, R120) -/

/-- `display` of a source pixel, as a colour number. -/
def pixelSteady (s : State) (f : FrameDesc) (q : Nat × Nat) : ColourNo :=
  BitVec.ofNat 4 (sourceDisplay s f q.1 q.2)

/-- What the alternate grid gets of a source pixel: `alt` in a cell with effective flashing. -/
def pixelAlt (s : State) (f : FrameDesc) (q : Nat × Nat) : ColourNo :=
  if sourceFlashing s f q.1 q.2 then BitVec.ofNat 4 (sourceAlt s f q.1 q.2) else pixelSteady s f q

/-- What a source pixel does to the frame's set. -/
def paintPixel (s : State) (f : FrameDesc) (b : FrameSet) (q : Nat × Nat) : FrameSet :=
  if pixelVisible f q then
    paintSpan f q.2 q.1 (sourceFlashing s f q.1 q.2) (pixelSteady s f q) (pixelAlt s f q) b
  else b

/-- The colours that a source pixel passes to `PALADD`. -/
def visitAdds (s : State) (f : FrameDesc) (q : Nat × Nat) : List ColourNo :=
  if pixelVisible f q then pixelAdds s f q.1 q.2 else []

/-- What a source pixel does. -/
def visitPixel (s : State) (f : FrameDesc) (g : RasterRegs) (q : Nat × Nat) : RasterRegs :=
  { pl := (visitAdds s f q).foldl (addColour s.ctl) g.pl, set := paintPixel s f g.set q }

theorem visitPixel_of_invisible (s : State) (f : FrameDesc) (g : RasterRegs) (q : Nat × Nat)
    (h : ¬ pixelVisible f q = true) : visitPixel s f g q = g := by
  rw [visitPixel, visitAdds, paintPixel, if_neg h, if_neg h]
  rfl

/-- `PALADD` of a pixel's colours, from registers that `PALADD` built. -/
theorem palAdd_pixelAdds (s : State) (f : FrameDesc) (p : PaletteRegs) (q : Nat × Nat)
    (hpl : PaletteOk s.ctl p) :
    ((palAdd s.ctl p (pixelSteady s f q)).andThen fun p1 =>
        if sourceFlashing s f q.1 q.2 then palAdd s.ctl p1 (pixelAlt s f q) else .ok p1) =
      .ok ((pixelAdds s f q.1 q.2).foldl (addColour s.ctl) p) ∧
    PaletteOk s.ctl ((pixelAdds s f q.1 q.2).foldl (addColour s.ctl) p) := by
  obtain ⟨hadd, hok⟩ := palAdd_eq_addColour s.ctl p (pixelSteady s f q) hpl
  rw [hadd, Flow.andThen]
  unfold pixelAdds pixelAlt
  split_ifs
  · exact palAdd_eq_addColour s.ctl _ _ hok
  · exact ⟨rfl, hok⟩

/-- The machine's pass over pixel `p` of a cell whose record was read is that of the source pixel. -/
theorem rasterPixel_eq_visitPixel (s : State) (f : FrameDesc) (r : Bytes) (c : Nat × Nat) (g : RasterRegs)
    (p : Nat × Nat) (hp : p ∈ pairs 8 8) (hpl : PaletteOk s.ctl g.pl)
    (hread : memReadBytes s.par.cellMemSize s.mem (cellAddr f c.1 c.2) 18 = .ok r) :
    rasterPixel s.ctl f s.flg.useFlash r c.1 c.2 g p =
        .ok (visitPixel s f g (8 * c.1 + p.1, 8 * c.2 + p.2)) ∧
      PaletteOk s.ctl (visitPixel s f g (8 * c.1 + p.1, 8 * c.2 + p.2)).pl := by
  obtain ⟨hy, hx⟩ := (mem_pairs 8 8 p.1 p.2).1 hp
  have hrec := isRecord_of_read s f r c.1 c.2 p.1 p.2 hy hx hread
  have hcolours := pixelColours_eq s f r c.1 c.2 p.1 p.2 hy hx hrec
  unfold rasterPixel
  rw [hcolours, cellFlashing_eq s f _ _ r hrec]
  generalize hq : (8 * c.1 + p.1, 8 * c.2 + p.2) = q
  obtain ⟨hrow, hcol⟩ : 8 * c.1 + p.1 = q.1 ∧ 8 * c.2 + p.2 = q.2 := by simp [← hq]
  dsimp only
  rw [hrow, hcol]
  by_cases hvisible : pixelVisible f q = true
  · obtain ⟨hadds, hok⟩ := palAdd_pixelAdds s f g.pl q hpl
    obtain ⟨p1, hsteady, halt⟩ := (Flow.andThen_eq_ok _ _ _).1 hadds
    rw [visitPixel, visitAdds, paintPixel, if_pos hvisible, if_pos hvisible]
    refine ⟨(if_pos hvisible).trans ?_, hok⟩
    change (palAdd s.ctl g.pl (pixelSteady s f q)).andThen _ = _
    rw [hsteady]
    change (if sourceFlashing s f q.1 q.2 then palAdd s.ctl p1 (pixelAlt s f q) else .ok p1).andThen _ = _
    rw [halt]
    rfl
  · rw [visitPixel_of_invisible s f g _ hvisible]
    exact ⟨if_neg hvisible, hpl⟩

/-- A cell's pass is the passes of its source pixels: a cell that is not visited has no visible pixel. -/
theorem rasterCell_eq_foldl (s : State) (f : FrameDesc) (g : RasterRegs) (c : Nat × Nat)
    (hscale : 0 < f.scale.toNat) (hcells : CellsReadable s f) (hpl : PaletteOk s.ctl g.pl) :
    rasterCell s.par.cellMemSize s.mem s.ctl f s.flg.useFlash g c =
        .ok ((cellPixels c).foldl (visitPixel s f) g) ∧
      PaletteOk s.ctl ((cellPixels c).foldl (visitPixel s f) g).pl := by
  unfold rasterCell
  by_cases hvisited : cellVisited f c.1 c.2 = true
  · obtain ⟨r, hread⟩ := hcells.read hscale c hvisited
    rw [if_pos hvisited, hread, cellPixels, List.foldl_map]
    exact Flow.loop_eq_foldl _ _ (fun g => PaletteOk s.ctl g.pl) _ g hpl fun g p hp hg =>
      rasterPixel_eq_visitPixel s f r c g p hp hg hread
  · have hnone : (cellPixels c).foldl (visitPixel s f) g = (cellPixels c).foldl (fun g _ => g) g :=
      List.foldl_ext _ _ _ fun g q hq => visitPixel_of_invisible s f g q fun h =>
        hvisited ((cellVisited_iff f c).2 ⟨q, hq, h⟩)
    rw [if_neg hvisited, hnone, List.foldl_fixed]
    exact ⟨rfl, hpl⟩

/-! ## The frame -/

/-- Rasterising a readable frame is the loop over its source pixels. -/
theorem rasterFrame_eq_foldl (s : State) (f : FrameDesc) (old : FrameSet) (hscale : 0 < f.scale.toNat)
    (hcells : CellsReadable s f) (hpl : PaletteOk s.ctl s.pl) :
    rasterFrame s f old =
      .ok ((framePixels f).foldl (visitPixel s f) { pl := s.pl, set := blankSet f old }) := by
  rw [framePixels, List.foldl_flatMap]
  exact (Flow.loop_eq_foldl _ _ (fun g => PaletteOk s.ctl g.pl) _ _ hpl fun g c _ hg =>
    rasterCell_eq_foldl s f g c hscale hcells hg).1

/-- The loop does to the palette registers and to the frame's set what two loops would do. -/
theorem foldl_visitPixel (s : State) (f : FrameDesc) (qs : List (Nat × Nat)) (g : RasterRegs) :
    qs.foldl (visitPixel s f) g =
      { pl := (qs.flatMap (visitAdds s f)).foldl (addColour s.ctl) g.pl
        set := qs.foldl (paintPixel s f) g.set } := by
  induction qs generalizing g with
  | nil => rfl
  | cons q qs ih =>
    rw [List.foldl_cons, ih, List.flatMap_cons, List.foldl_append]
    rfl

/-- The colours that the loop adds, in its order, are those of the statement. -/
theorem flatMap_visitAdds (s : State) (f : FrameDesc) (hscale : 0 < f.scale.toNat) :
    (framePixels f).flatMap (visitAdds s f) = frameAdds s f := by
  simp only [framePixels, frameAdds, pairs, cellPixels, List.flatMap_assoc, List.flatMap_map,
    List.map_flatMap, List.map_map, visitAdds, pixelVisible, columnShown_eq _ _ hscale,
    rowShown_eq _ _ hscale, Function.comp_def]
  rfl

/-- The state after a `RASTER` of a frame that meets the contract, with the cells it shows readable. -/
theorem exec_raster_of_readable (s : State) (hok : FrameOk (frameDesc s.ctl s.pc.fi.toNat))
    (hcells : CellsReadable s (frameDesc s.ctl s.pc.fi.toNat)) (hpl : PaletteBuilt s) :
    exec .raster s = .next (rastered s
      { pl := (frameAdds s (frameDesc s.ctl s.pc.fi.toNat)).foldl (addColour s.ctl) s.pl
        set := (framePixels (frameDesc s.ctl s.pc.fi.toNat)).foldl
          (paintPixel s (frameDesc s.ctl s.pc.fi.toNat))
          (blankSet (frameDesc s.ctl s.pc.fi.toNat) (frameSet s s.pc.fi.toNat)) }) := by
  obtain ⟨-, -, hscale, -⟩ := hok
  refine exec_raster_of_ok s _ ?_
  rw [rasterFrame_eq_foldl s _ _ hscale hcells hpl, foldl_visitPixel, flatMap_visitAdds s _ hscale]

/-- Settles O16: the palette half of the loop, and `PALADD` only appends. -/
theorem rasterAddsColoursInLoopOrder : Obligations.RasterAddsColoursInLoopOrder := by
  intro s t f hok hcells hpl h
  rw [exec_raster_of_readable s hok hcells hpl] at h
  cases h
  rw [rastered_pl]
  exact ⟨rfl, plist_foldl_addColour s.ctl _ s.pl⟩

end Sys2Proof.Machine
end

section
/-! The grids and the flash box after a `RASTER` (R121 to R124): each is a function of the set of source
pixels painted so far, and the loop over a frame paints every pixel that a grid element shows. -/

namespace Sys2Proof.Machine

/-! ## Grids given by their elements (R39) -/

theorem gridAt_gridOf {α : Type} (v : α) (w h : Nat) (F : Nat → Nat → α) (y x : Nat) (hy : y < h)
    (hx : x < w) : gridAt v (gridOf w h F) y x = F y x := by
  simp [gridAt, gridOf, List.getD_eq_getElem?_getD, List.getElem?_range hy, List.getElem?_range hx]

theorem gridOf_congr {α : Type} (w h : Nat) (F G : Nat → Nat → α)
    (heq : ∀ y x, y < h → x < w → F y x = G y x) : gridOf w h F = gridOf w h G :=
  List.map_congr_left fun y hy => List.map_congr_left fun x hx =>
    heq y x (List.mem_range.1 hy) (List.mem_range.1 hx)

/-- Painting a rectangle sets the elements inside it. -/
theorem gridPaint_gridOf {α : Type} (w h : Nat) (F : Nat → Nat → α) (xlo xhi ylo yhi : Nat) (c : α) :
    gridPaint (gridOf w h F) xlo xhi ylo yhi c =
      gridOf w h fun y x => if (ylo ≤ y ∧ y < yhi) ∧ xlo ≤ x ∧ x < xhi then c else F y x := by
  refine List.ext_getElem (by simp [gridPaint, gridOf]) fun y hy _ => ?_
  simp only [gridPaint, gridOf, List.getElem_mapIdx, List.getElem_map, List.getElem_range]
  by_cases hrow : ylo ≤ y ∧ y < yhi
  · refine List.ext_getElem (by simp [hrow]) fun x hx _ => ?_
    simp [hrow]
  · simp [hrow]

/-! ## What is painted (R121, R122) -/

/-- The grid of a frame in which the source pixels `qs` have been painted with the colours `F`. -/
def paintedGrid (f : FrameDesc) (qs : List (Nat × Nat)) (F : Nat × Nat → ColourNo) : Grid ColourNo :=
  gridOf f.cropW.toNat f.cropH.toNat fun y x =>
    if shownPixel f y x ∈ qs then F (shownPixel f y x) else Config.gridUnwritten y x

/-- The first grid row of a source pixel's span. -/
def rowLo (f : FrameDesc) (q : Nat × Nat) : Nat := spanLo q.1 f.scale.toNat f.cropY.toNat

/-- One past its last. -/
def rowHi (f : FrameDesc) (q : Nat × Nat) : Nat := spanHi q.1 f.scale.toNat f.cropY.toNat f.cropH.toNat

/-- The first grid column of a source pixel's span. -/
def colLo (f : FrameDesc) (q : Nat × Nat) : Nat := spanLo q.2 f.scale.toNat f.cropX.toNat

/-- One past its last. -/
def colHi (f : FrameDesc) (q : Nat × Nat) : Nat := spanHi q.2 f.scale.toNat f.cropX.toNat f.cropW.toNat

/-- A visited pixel's two spans are not empty, and end inside the grid. -/
theorem spans_of_visible (f : FrameDesc) (q : Nat × Nat) (h : pixelVisible f q = true) :
    (rowLo f q < rowHi f q ∧ rowHi f q ≤ f.cropH.toNat) ∧
      colLo f q < colHi f q ∧ colHi f q ≤ f.cropW.toNat := by
  rw [pixelVisible, Bool.and_eq_true] at h
  obtain ⟨hx, hy⟩ := h
  exact ⟨⟨of_decide_eq_true hy, spanHi_le _ _ _ _⟩, of_decide_eq_true hx, spanHi_le _ _ _ _⟩

/-- The elements in the two spans of a source pixel are those that show it (R118). -/
theorem shownPixel_eq_iff (f : FrameDesc) (q : Nat × Nat) (y x : Nat) (hscale : 0 < f.scale.toNat)
    (hy : y < f.cropH.toNat) (hx : x < f.cropW.toNat) :
    shownPixel f y x = q ↔
      (rowLo f q ≤ y ∧ y < rowHi f q) ∧ colLo f q ≤ x ∧ x < colHi f q := by
  unfold rowLo rowHi colLo colHi
  rw [spansPartitionTheGrid _ _ _ _ _ hscale hy, spansPartitionTheGrid _ _ _ _ _ hscale hx, Prod.ext_iff]
  exact and_congr eq_comm eq_comm

/-- Filling the span of one more pixel paints that pixel. -/
theorem gridPaint_paintedGrid (f : FrameDesc) (qs : List (Nat × Nat)) (F : Nat × Nat → ColourNo)
    (q : Nat × Nat) (hscale : 0 < f.scale.toNat) :
    gridPaint (paintedGrid f qs F) (colLo f q) (colHi f q) (rowLo f q) (rowHi f q) (F q) =
      paintedGrid f (qs ++ [q]) F := by
  rw [paintedGrid, gridPaint_gridOf]
  refine gridOf_congr _ _ _ _ fun y x hy hx => ?_
  simp only [← shownPixel_eq_iff f q y x hscale hy hx]
  by_cases hq : shownPixel f y x = q <;> simp [hq]

/-- A pixel that nothing shows makes no difference. -/
theorem paintedGrid_of_invisible (f : FrameDesc) (qs : List (Nat × Nat)) (F : Nat × Nat → ColourNo)
    (q : Nat × Nat) (hscale : 0 < f.scale.toNat) (hq : ¬ pixelVisible f q = true) :
    paintedGrid f (qs ++ [q]) F = paintedGrid f qs F := by
  refine gridOf_congr _ _ _ _ fun y x hy hx => ?_
  have hne : shownPixel f y x ≠ q := fun h => hq ((pixelVisible_iff f q hscale).2 ⟨y, x, hy, hx, h⟩)
  simp [hne]

/-! ## The flash box (R124) -/

/-- The box of `b` is the smallest one that holds the elements (row, column) in `C`; there is none when
there is no such element. -/
structure IsBox (C : Nat → Nat → Prop) (b : FrameSet) : Prop where
  /-- There is a box when there is an element, and it holds each of them. -/
  holds : ∀ y x, C y x → b.boxv = true ∧
    b.minx.toNat ≤ x ∧ x ≤ b.maxx.toNat ∧ b.miny.toNat ≤ y ∧ y ≤ b.maxy.toNat
  /-- Each of its four bounds is reached. -/
  reached : b.boxv = true → (∃ y, C y b.minx.toNat) ∧ (∃ y, C y b.maxx.toNat) ∧
    (∃ x, C b.miny.toNat x) ∧ ∃ x, C b.maxy.toNat x

theorem IsBox.congr {C D : Nat → Nat → Prop} {b : FrameSet} (h : IsBox C b)
    (hCD : ∀ y x, C y x ↔ D y x) : IsBox D b := by
  have heq : C = D := funext fun y => funext fun x => propext (hCD y x)
  exact heq ▸ h

/-- A frame set without a box, when there is no element. -/
theorem IsBox.of_none {C : Nat → Nat → Prop} {b : FrameSet} (hb : b.boxv = false)
    (hC : ∀ y x, ¬ C y x) : IsBox C b :=
  ⟨fun y x h => absurd h (hC y x), fun h => absurd h (by simp [hb])⟩

/-- A bound of the box, as the grid position it names. -/
theorem toNat_ofNat_16 (n : Nat) (h : n < 2 ^ 16) : (BitVec.ofNat 16 n).toNat = n := by
  rw [BitVec.toNat_ofNat, Nat.mod_eq_of_lt h]

theorem extendBox_of_box (b : FrameSet) (x1 y1 x2 y2 : Nat) (hb : b.boxv = true) (hx2 : x2 < 2 ^ 16)
    (hy2 : y2 < 2 ^ 16) :
    (extendBox b x1 y1 x2 y2).boxv = true ∧
      (extendBox b x1 y1 x2 y2).minx.toNat = min b.minx.toNat x1 ∧
      (extendBox b x1 y1 x2 y2).maxx.toNat = max b.maxx.toNat x2 ∧
      (extendBox b x1 y1 x2 y2).miny.toNat = min b.miny.toNat y1 ∧
      (extendBox b x1 y1 x2 y2).maxy.toNat = max b.maxy.toNat y2 := by
  rw [extendBox, if_pos hb]
  exact ⟨hb, toNat_ofNat_16 _ (by omega), toNat_ofNat_16 _ (by omega), toNat_ofNat_16 _ (by omega),
    toNat_ofNat_16 _ (by omega)⟩

theorem extendBox_of_none (b : FrameSet) (x1 y1 x2 y2 : Nat) (hb : ¬ b.boxv = true) (hx : x1 ≤ x2)
    (hy : y1 ≤ y2) (hx2 : x2 < 2 ^ 16) (hy2 : y2 < 2 ^ 16) :
    (extendBox b x1 y1 x2 y2).boxv = true ∧
      (extendBox b x1 y1 x2 y2).minx.toNat = x1 ∧ (extendBox b x1 y1 x2 y2).maxx.toNat = x2 ∧
      (extendBox b x1 y1 x2 y2).miny.toNat = y1 ∧ (extendBox b x1 y1 x2 y2).maxy.toNat = y2 := by
  rw [extendBox, if_neg hb]
  exact ⟨rfl, toNat_ofNat_16 _ (by omega), toNat_ofNat_16 _ hx2, toNat_ofNat_16 _ (by omega),
    toNat_ofNat_16 _ hy2⟩

/-- Extending the box by a rectangle: it holds what it held and the rectangle, and each bound is an old
one or one of the rectangle's. -/
theorem IsBox.extend {C : Nat → Nat → Prop} {b : FrameSet} (h : IsBox C b) (x1 y1 x2 y2 : Nat)
    (hx : x1 ≤ x2) (hy : y1 ≤ y2) (hx2 : x2 < 2 ^ 16) (hy2 : y2 < 2 ^ 16) :
    IsBox (fun y x => C y x ∨ (y1 ≤ y ∧ y ≤ y2) ∧ x1 ≤ x ∧ x ≤ x2) (extendBox b x1 y1 x2 y2) := by
  obtain ⟨holds, reached⟩ := h
  by_cases hb : b.boxv = true
  · obtain ⟨hbox, hminx, hmaxx, hminy, hmaxy⟩ := extendBox_of_box b x1 y1 x2 y2 hb hx2 hy2
    obtain ⟨⟨yl, hleft⟩, ⟨yr, hright⟩, ⟨xt, htop⟩, ⟨xb, hbottom⟩⟩ := reached hb
    refine ⟨fun y x hyx => ⟨hbox, ?_⟩, fun _ => ?_⟩
    · rw [hminx, hmaxx, hminy, hmaxy]
      obtain hold | hnew := hyx
      · have hin := holds y x hold
        omega
      · omega
    · rw [hminx, hmaxx, hminy, hmaxy]
      refine ⟨?_, ?_, ?_, ?_⟩
      · obtain heq | heq := min_choice b.minx.toNat x1 <;> rw [heq]
        · exact ⟨yl, .inl hleft⟩
        · exact ⟨y1, .inr (by omega)⟩
      · obtain heq | heq := max_choice b.maxx.toNat x2 <;> rw [heq]
        · exact ⟨yr, .inl hright⟩
        · exact ⟨y1, .inr (by omega)⟩
      · obtain heq | heq := min_choice b.miny.toNat y1 <;> rw [heq]
        · exact ⟨xt, .inl htop⟩
        · exact ⟨x1, .inr (by omega)⟩
      · obtain heq | heq := max_choice b.maxy.toNat y2 <;> rw [heq]
        · exact ⟨xb, .inl hbottom⟩
        · exact ⟨x1, .inr (by omega)⟩
  · obtain ⟨hbox, hminx, hmaxx, hminy, hmaxy⟩ := extendBox_of_none b x1 y1 x2 y2 hb hx hy hx2 hy2
    refine ⟨fun y x hyx => ⟨hbox, ?_⟩, fun _ => ?_⟩
    · obtain hold | hnew := hyx
      · obtain ⟨hbox, -⟩ := holds y x hold
        exact absurd hbox hb
      · omega
    · rw [hminx, hmaxx, hminy, hmaxy]
      exact ⟨⟨y1, .inr (by omega)⟩, ⟨y1, .inr (by omega)⟩, ⟨x1, .inr (by omega)⟩, ⟨x1, .inr (by omega)⟩⟩

/-! ## One more pixel (R120, R123) -/

/-- The source pixels whose elements differ between the two grids (R123). -/
def pixelChanged (s : State) (f : FrameDesc) (q : Nat × Nat) : Bool :=
  sourceFlashing s f q.1 q.2 && pixelSteady s f q ≠ 0

/-- The changed elements among those that show one of the source pixels `qs`. -/
def changedAmong (s : State) (f : FrameDesc) (qs : List (Nat × Nat)) (y x : Nat) : Prop :=
  shownChanged s f y x ∧ shownPixel f y x ∈ qs

theorem shownChanged_iff (s : State) (f : FrameDesc) (y x : Nat) :
    shownChanged s f y x ↔
      y < f.cropH.toNat ∧ x < f.cropW.toNat ∧ pixelChanged s f (shownPixel f y x) = true := by
  rw [pixelChanged, Bool.and_eq_true, decide_eq_true_iff]
  rfl

/-- The frame's set `b` after the source pixels `qs`. -/
structure Painted (s : State) (f : FrameDesc) (qs : List (Nat × Nat)) (b : FrameSet) : Prop where
  steady : b.steady = paintedGrid f qs (pixelSteady s f)
  alt : b.alt = paintedGrid f qs (pixelAlt s f)
  box : IsBox (changedAmong s f qs) b

theorem painted_blankSet (s : State) (f : FrameDesc) (old : FrameSet) :
    Painted s f [] (blankSet f old) := by
  have hgrid : ∀ F, gridOf f.cropW.toNat f.cropH.toNat Config.gridUnwritten = paintedGrid f [] F :=
    fun F => gridOf_congr _ _ _ _ fun y x _ _ => (if_neg List.not_mem_nil).symm
  exact ⟨hgrid _, hgrid _, .of_none rfl fun y x ⟨_, hmem⟩ => List.not_mem_nil hmem⟩

theorem extendBox_grids (b : FrameSet) (x1 y1 x2 y2 : Nat) :
    (extendBox b x1 y1 x2 y2).steady = b.steady ∧ (extendBox b x1 y1 x2 y2).alt = b.alt := by
  unfold extendBox
  split_ifs <;> exact ⟨rfl, rfl⟩

/-- A pixel that is not changed, or that nothing shows, adds no changed element. -/
theorem changedAmong_append_of_not (s : State) (f : FrameDesc) (qs : List (Nat × Nat)) (q : Nat × Nat)
    (hq : ∀ y x, shownChanged s f y x → shownPixel f y x ≠ q) (y x : Nat) :
    changedAmong s f qs y x ↔ changedAmong s f (qs ++ [q]) y x := by
  refine and_congr_right fun hchanged => ?_
  simp [hq y x hchanged]

/-- A changed pixel adds the elements of its two spans. -/
theorem changedAmong_append_of_changed (s : State) (f : FrameDesc) (qs : List (Nat × Nat)) (q : Nat × Nat)
    (hscale : 0 < f.scale.toNat) (hvisible : pixelVisible f q = true) (hq : pixelChanged s f q = true)
    (y x : Nat) :
    (changedAmong s f qs y x ∨
        (rowLo f q ≤ y ∧ y ≤ rowHi f q - 1) ∧ colLo f q ≤ x ∧ x ≤ colHi f q - 1) ↔
      changedAmong s f (qs ++ [q]) y x := by
  obtain ⟨hrows, hcols⟩ := spans_of_visible f q hvisible
  constructor
  · rintro (⟨hchanged, hmem⟩ | ⟨⟨hylo, hyhi⟩, hxlo, hxhi⟩)
    · exact ⟨hchanged, List.mem_append_left _ hmem⟩
    · have hy : y < f.cropH.toNat := by omega
      have hx : x < f.cropW.toNat := by omega
      have hshows : shownPixel f y x = q :=
        (shownPixel_eq_iff f q y x hscale hy hx).2 ⟨⟨hylo, by omega⟩, hxlo, by omega⟩
      exact ⟨(shownChanged_iff s f y x).2 ⟨hy, hx, hshows ▸ hq⟩, by simp [hshows]⟩
  · rintro ⟨hchanged, hmem⟩
    obtain hmem | hshows := List.mem_append.1 hmem
    · exact .inl ⟨hchanged, hmem⟩
    · obtain ⟨hy, hx, -⟩ := (shownChanged_iff s f y x).1 hchanged
      obtain ⟨⟨hylo, hyhi⟩, hxlo, hxhi⟩ :=
        (shownPixel_eq_iff f q y x hscale hy hx).1 (List.mem_singleton.1 hshows)
      exact .inr ⟨⟨hylo, by omega⟩, hxlo, by omega⟩

/-- The frame's set with the two spans of a source pixel filled, its box not yet extended. -/
def fillSpans (s : State) (f : FrameDesc) (b : FrameSet) (q : Nat × Nat) : FrameSet :=
  { b with
    steady := gridPaint b.steady (colLo f q) (colHi f q) (rowLo f q) (rowHi f q) (pixelSteady s f q)
    alt := gridPaint b.alt (colLo f q) (colHi f q) (rowLo f q) (rowHi f q) (pixelAlt s f q) }

theorem paintPixel_of_visible (s : State) (f : FrameDesc) (b : FrameSet) (q : Nat × Nat)
    (hvisible : pixelVisible f q = true) :
    paintPixel s f b q =
      if pixelChanged s f q then
        extendBox (fillSpans s f b q) (colLo f q) (rowLo f q) (colHi f q - 1) (rowHi f q - 1)
      else fillSpans s f b q :=
  if_pos hvisible

/-- Painting a pixel that nothing shows. -/
theorem Painted.append_of_invisible {s : State} {f : FrameDesc} {qs : List (Nat × Nat)} {b : FrameSet}
    (h : Painted s f qs b) (q : Nat × Nat) (hscale : 0 < f.scale.toNat)
    (hvisible : ¬ pixelVisible f q = true) : Painted s f (qs ++ [q]) (paintPixel s f b q) := by
  obtain ⟨hsteady, halt, hbox⟩ := h
  rw [paintPixel, if_neg hvisible]
  refine ⟨hsteady.trans (paintedGrid_of_invisible f qs _ q hscale hvisible).symm,
    halt.trans (paintedGrid_of_invisible f qs _ q hscale hvisible).symm,
    hbox.congr (changedAmong_append_of_not s f qs q ?_)⟩
  rintro y x hchanged rfl
  obtain ⟨hy, hx, -⟩ := (shownChanged_iff s f y x).1 hchanged
  exact hvisible ((pixelVisible_iff f _ hscale).2 ⟨y, x, hy, hx, rfl⟩)

/-- Painting a visited pixel: its spans are filled, and a changed one extends the box by them. -/
theorem Painted.append_of_visible {s : State} {f : FrameDesc} {qs : List (Nat × Nat)} {b : FrameSet}
    (h : Painted s f qs b) (q : Nat × Nat) (hscale : 0 < f.scale.toNat)
    (hvisible : pixelVisible f q = true) : Painted s f (qs ++ [q]) (paintPixel s f b q) := by
  obtain ⟨hsteady, halt, hbox⟩ := h
  have hfillSteady : (fillSpans s f b q).steady = paintedGrid f (qs ++ [q]) (pixelSteady s f) := by
    rw [← gridPaint_paintedGrid f qs _ q hscale, ← hsteady]
    rfl
  have hfillAlt : (fillSpans s f b q).alt = paintedGrid f (qs ++ [q]) (pixelAlt s f) := by
    rw [← gridPaint_paintedGrid f qs _ q hscale, ← halt]
    rfl
  have hfillBox : IsBox (changedAmong s f qs) (fillSpans s f b q) := ⟨hbox.holds, hbox.reached⟩
  rw [paintPixel_of_visible s f b q hvisible]
  by_cases hq : pixelChanged s f q = true
  · obtain ⟨⟨hrow, hrows⟩, hcol, hcols⟩ := spans_of_visible f q hvisible
    obtain ⟨hkeepSteady, hkeepAlt⟩ := extendBox_grids (fillSpans s f b q) (colLo f q) (rowLo f q)
      (colHi f q - 1) (rowHi f q - 1)
    rw [if_pos hq]
    exact ⟨hkeepSteady.trans hfillSteady, hkeepAlt.trans hfillAlt,
      (hfillBox.extend _ _ _ _ (by omega) (by omega) (by omega) (by omega)).congr
        (changedAmong_append_of_changed s f qs q hscale hvisible hq)⟩
  · rw [if_neg hq]
    refine ⟨hfillSteady, hfillAlt, hfillBox.congr (changedAmong_append_of_not s f qs q ?_)⟩
    rintro y x hchanged rfl
    obtain ⟨-, -, hpixel⟩ := (shownChanged_iff s f y x).1 hchanged
    exact hq hpixel

/-! ## The whole frame -/

/-- The loop paints the pixels that it has passed. -/
theorem painted_foldl (s : State) (f : FrameDesc) (old : FrameSet) (hscale : 0 < f.scale.toNat)
    (qs : List (Nat × Nat)) : Painted s f qs (qs.foldl (paintPixel s f) (blankSet f old)) := by
  induction qs using List.reverseRecOn with
  | nil => exact painted_blankSet s f old
  | append_singleton qs q ih =>
    rw [List.foldl_append]
    by_cases hvisible : pixelVisible f q = true
    · exact ih.append_of_visible q hscale hvisible
    · exact ih.append_of_invisible q hscale hvisible

/-- What every grid element shows is one of the frame's source pixels. -/
theorem FrameOk.shownPixel_mem {f : FrameDesc} (h : FrameOk f) (y x : Nat) (hy : y < f.cropH.toNat)
    (hx : x < f.cropW.toNat) : shownPixel f y x ∈ framePixels f :=
  (mem_framePixels f _).2 ((mem_pairs _ _ _ _).1 (h.shown_mem_pairs y x hy hx))

/-- Every element of a grid in which the whole frame is painted shows its source pixel. -/
theorem gridAt_paintedGrid {f : FrameDesc} (hok : FrameOk f) (F : Nat × Nat → ColourNo) (v : ColourNo)
    (y x : Nat) (hy : y < f.cropH.toNat) (hx : x < f.cropW.toNat) :
    gridAt v (paintedGrid f (framePixels f) F) y x = F (shownPixel f y x) := by
  rw [paintedGrid, gridAt_gridOf v _ _ _ y x hy hx, if_pos (hok.shownPixel_mem y x hy hx)]

/-- `RASTER` of a frame that meets the contract, with the cells it shows readable: it completes, and the
frame's set then has every one of its source pixels painted. -/
theorem exec_raster_painted (s : State) (hok : FrameOk (frameDesc s.ctl s.pc.fi.toNat))
    (hcells : CellsReadable s (frameDesc s.ctl s.pc.fi.toNat)) (hpl : PaletteBuilt s) :
    ∃ g, exec .raster s = .next (rastered s g) ∧
      Painted s (frameDesc s.ctl s.pc.fi.toNat) (framePixels (frameDesc s.ctl s.pc.fi.toNat)) g.set := by
  refine ⟨_, exec_raster_of_readable s hok hcells hpl, ?_⟩
  obtain ⟨-, -, hscale, -⟩ := hok
  exact painted_foldl s _ _ hscale _

/-- Settles O14: the frame's grids are painted, and nothing else of the state is touched. -/
theorem rasterPaintsWhatTheFrameShows : Obligations.RasterPaintsWhatTheFrameShows := by
  intro s i f hok hcells hpl
  obtain ⟨g, hexec, hpainted⟩ := exec_raster_painted s hok hcells hpl
  obtain ⟨hsteady, halt, -⟩ := hpainted
  refine ⟨rastered s g, hexec, ?_, fun j hj => ?_, fun v y x hy hx => ?_⟩
  · rw [rastered, rasterLoop_eq]
    rfl
  · rw [frameSet_rastered, if_neg hj]
  · rw [frameSet_rastered, if_pos rfl, hsteady, halt, gridAt_paintedGrid hok _ v y x hy hx,
      gridAt_paintedGrid hok _ v y x hy hx]
    exact ⟨rfl, rfl⟩

/-! ## The changed elements (R123) -/

/-- The numbers of real colours: 1 to 15 (R110). -/
theorem attrColour_bounds (attr lo : Nat) : 1 ≤ attrColour attr lo ∧ attrColour attr lo ≤ 15 := by
  unfold attrColour
  dsimp only
  split_ifs <;> omega

/-- `PIXSEL` selects ink, paper or transparent by the pixel's bits, whatever the two colours are. -/
theorem sourceSelect_cases (s : State) (f : FrameDesc) (sy sx : Nat) :
    (∀ fg bg, sourceSelect s f sy sx fg bg = fg) ∨ (∀ fg bg, sourceSelect s f sy sx fg bg = bg) ∨
      ∀ fg bg, sourceSelect s f sy sx fg bg = 0 := by
  unfold sourceSelect
  dsimp only
  split_ifs <;> simp

/-- In a cell with effective flashing `display` and `alt` differ unless both are transparent. -/
theorem pixelSteady_ne_pixelAlt_iff (s : State) (f : FrameDesc) (q : Nat × Nat) :
    pixelSteady s f q ≠ pixelAlt s f q ↔ pixelChanged s f q = true := by
  rw [pixelChanged, Bool.and_eq_true, decide_eq_true_iff, pixelAlt]
  by_cases hflash : sourceFlashing s f q.1 q.2 = true
  · have hne : sourcePaper s f q.1 q.2 ≠ sourceInk s f q.1 q.2 := by
      simp only [sourceFlashing, Bool.and_eq_true, decide_eq_true_eq] at hflash
      obtain ⟨⟨-, hne⟩, -⟩ := hflash
      exact hne
    have hink : 1 ≤ sourceInk s f q.1 q.2 ∧ sourceInk s f q.1 q.2 ≤ 15 := attrColour_bounds _ _
    have hpaper : 1 ≤ sourcePaper s f q.1 q.2 ∧ sourcePaper s f q.1 q.2 ≤ 15 := attrColour_bounds _ _
    simp only [hflash, if_true, true_and, pixelSteady, sourceDisplay, sourceAlt]
    obtain hsel | hsel | hsel := sourceSelect_cases s f q.1 q.2 <;> simp only [hsel] <;> bv_omega
  · simp [hflash]

theorem shownChanged_iff_ne (s : State) (f : FrameDesc) (y x : Nat) (hy : y < f.cropH.toNat)
    (hx : x < f.cropW.toNat) : shownChanged s f y x ↔ shownSteady s f y x ≠ shownAlt s f y x := by
  rw [shownChanged_iff, ← pixelSteady_ne_pixelAlt_iff]
  exact ⟨fun ⟨_, _, hne⟩ => hne, fun hne => ⟨hy, hx, hne⟩⟩

/-- When the whole frame is painted, the box is that of all its changed elements. -/
theorem Painted.box_changed {s : State} {f : FrameDesc} {b : FrameSet} (h : Painted s f (framePixels f) b)
    (hok : FrameOk f) : IsBox (shownChanged s f) b :=
  h.box.congr fun y x => ⟨And.left, fun hchanged => by
    obtain ⟨hy, hx, -⟩ := (shownChanged_iff s f y x).1 hchanged
    exact ⟨hchanged, hok.shownPixel_mem y x hy hx⟩⟩

/-- Settles O15: flashing exchanges two different colours, and the box is that of the painted pixels. -/
theorem rasterBoxIsMinimal : Obligations.RasterBoxIsMinimal := by
  refine ⟨shownChanged_iff_ne, ?_⟩
  intro s t i f hok hcells hpl h
  obtain ⟨g, hexec, hpainted⟩ := exec_raster_painted s hok hcells hpl
  obtain rfl : rastered s g = t := by
    rw [hexec] at h
    cases h
    rfl
  obtain ⟨holds, reached⟩ := hpainted.box_changed hok
  rw [frameSet_rastered, if_pos rfl]
  refine ⟨⟨fun hbox => ?_, fun ⟨y, x, hchanged⟩ => (holds y x hchanged).1⟩,
    fun hbox => ⟨fun y x hchanged => (holds y x hchanged).2, reached hbox⟩⟩
  obtain ⟨⟨y, hchanged⟩, -⟩ := reached hbox
  exact ⟨y, _, hchanged⟩

end Sys2Proof.Machine
end

section
/-! The frame assembler (R141 to R148): the registers that `PALADD` leaves, the index that `INDEXMAP` finds,
and the sub-frame table that `ASSEMBLE` builds. -/

namespace Sys2Proof.Machine

/-! ## `PALADD` alone (R141) -/

theorem exec_paladd_of_ok {c : ColourNo} {s : State} {p : PaletteRegs}
    (h : palAdd s.ctl s.pl c = .ok p) : exec (.paladd c) s = .next { s with pl := p } := by
  change execPaladd c s = _
  rw [execPaladd, h]
  rfl

theorem exec_paladd_of_fault {c : ColourNo} {s : State} {e : BitVec 4}
    (h : palAdd s.ctl s.pl c = .fault e) : exec (.paladd c) s = .next (raiseFault e s) := by
  change execPaladd c s = _
  rw [execPaladd, h]
  rfl

/-- Settles O19: each case of `PALADD`'s rule excludes the others. -/
theorem paladdByCase : Obligations.PaladdByCase := by
  intro c s
  obtain ⟨hc, heq⟩ | ⟨hc, hin, heq⟩ | ⟨hc, hnew, hfull, heq⟩ | ⟨hc, hnew, hroom, heq⟩ :=
    palAdd_cases s.ctl s.pl c
  · exact ⟨fun _ => exec_paladd_of_ok heq, fun h => absurd hc h, fun h => absurd hc h,
      fun h => absurd hc h⟩
  · exact ⟨fun h => absurd h hc, fun _ _ => exec_paladd_of_ok heq, fun _ h => absurd hin h,
      fun _ h => absurd hin h⟩
  · exact ⟨fun h => absurd h hc, fun _ h => absurd h hnew, fun _ _ h => absurd hfull h,
      fun _ _ _ => exec_paladd_of_fault heq⟩
  · exact ⟨fun h => absurd h hc, fun _ h => absurd h hnew, fun _ _ _ => exec_paladd_of_ok heq,
      fun _ _ h => absurd h hroom⟩

/-! ## The index of a colour (R144, R148) -/

/-- The search counts from `k` to the first place where the colour stands. -/
theorem positionOf_of_mem (v : Colour) (cs : List Colour) (k : Nat) (h : v ∈ cs) :
    positionOf v cs k = some (BitVec.ofNat 8 (k + cs.idxOf v)) := by
  induction cs generalizing k with
  | nil => exact absurd h List.not_mem_nil
  | cons c cs ih =>
    unfold positionOf
    by_cases hc : c = v
    · rw [if_pos hc, List.idxOf_cons_eq cs hc, Nat.add_zero]
    · have hmem : v ∈ cs := (List.mem_cons.1 h).resolve_left (Ne.symm hc)
      rw [if_neg hc, ih (k + 1) hmem, List.idxOf_cons_ne cs hc, Nat.succ_eq_add_one,
        Nat.add_right_comm, Nat.add_assoc]

theorem indexMap_zero (ctl : Control) (p : PaletteRegs) : indexMap ctl p 0 = 0 := if_pos rfl

theorem indexMap_of_mem (ctl : Control) (p : PaletteRegs) (c : ColourNo) (hc : c ≠ 0)
    (h : palColour ctl c ∈ palette ctl p) :
    indexMap ctl p c = BitVec.ofNat 8 ((palette ctl p).idxOf (palColour ctl c)) := by
  rw [indexMap, if_neg hc, positionOf_of_mem _ _ 0 h, Nat.zero_add]

theorem exec_indexmap (c : ColourNo) (s : State) :
    exec (.indexmap c) s = .next { s with fout := .index (indexMap s.ctl s.pl c) } := rfl

/-- Without an earlier occurrence, the place where a value stands is its index in the list. -/
theorem idxOf_eq_of_first {v : Colour} {cs : List Colour} {i : Nat} (hi : cs[i]? = some v)
    (hfirst : ∀ j, j < i → cs[j]? ≠ some v) : cs.idxOf v = i := by
  obtain ⟨hlt, hget⟩ := List.getElem?_eq_some_iff.1 hi
  refine (List.findIdx_eq hlt).2 ⟨beq_iff_eq.2 hget, fun j hj => beq_eq_false_iff_ne.2 fun heq => ?_⟩
  exact hfirst j hj (List.getElem?_eq_some_iff.2 ⟨hj.trans hlt, heq⟩)

/-- Settles O20: transparent is not searched for, and the search ends at the first place. -/
theorem indexmapFindsThePosition : Obligations.IndexmapFindsThePosition := by
  refine ⟨fun s => ?_, fun c s i hc _ hi hfirst => ?_, fun c s => ⟨_, exec_indexmap c s⟩⟩
  · rw [exec_indexmap, indexMap_zero]
  · have hidx : (palette s.ctl s.pl).idxOf (palColour s.ctl c) = i := idxOf_eq_of_first hi hfirst
    rw [exec_indexmap, indexMap_of_mem s.ctl s.pl c hc (List.mem_of_getElem? hi), hidx]

theorem mem_palette_of_mem_plist {ctl : Control} {p : PaletteRegs} {v : Colour} (h : v ∈ p.plist) :
    v ∈ palette ctl p := by
  unfold palette
  split_ifs
  · exact List.mem_cons_of_mem _ h
  · exact h

/-- Settles O23: an index below 256 keeps its value in the 8 bits of the result. -/
theorem indicesStayInThePalette : Obligations.IndicesStayInThePalette := by
  intro ctl p c hlen htrans hadded
  by_cases hc : c = 0
  · subst hc
    have hpal : palette ctl p = palColour ctl 0 :: p.plist := if_pos (htrans rfl)
    rw [indexMap_zero, hpal]
    exact ⟨Nat.succ_pos _, rfl⟩
  · have hmem : palColour ctl c ∈ palette ctl p := mem_palette_of_mem_plist (hadded hc)
    have hlt : (palette ctl p).idxOf (palColour ctl c) < (palette ctl p).length :=
      List.idxOf_lt_length_of_mem hmem
    rw [indexMap_of_mem ctl p c hc hmem, BitVec.toNat_ofNat, Nat.mod_eq_of_lt (hlt.trans_le hlen)]
    exact ⟨hlt, List.getElem?_idxOf hmem⟩

/-! ## The sub-frames (R145, R147) -/

/-- A sub-frame made from a frame has its size, offset and delay, and the indices of its steady grid. -/
theorem frameSub_shows (s : State) (i : Nat) :
    let f := frameDesc s.ctl i
    let g := frameSub s i
    g.w = f.cropW ∧ g.h = f.cropH ∧ g.x.toNat = f.offX.toNat ∧ g.y.toNat = f.offY.toNat ∧
      g.delay = f.delay ∧
      ∀ y x, y < f.cropH.toNat → x < f.cropW.toNat →
        idxAt g y x =
          indexMap s.ctl s.pl (gridAt (Config.gridUnwritten y x) (frameSet s i).steady y x) :=
  ⟨rfl, rfl, BitVec.toNat_setWidth_of_le (by decide), BitVec.toNat_setWidth_of_le (by decide), rfl,
    fun y x hy hx => gridAt_gridOf _ _ _ _ y x hy hx⟩

/-- The sides of a box whose last column or row lies inside a 16-bit size fit 16 bits. -/
theorem toNat_boxSide (lo hi size : BitVec 16) (hle : lo.toNat ≤ hi.toNat) (hlt : hi.toNat < size.toNat) :
    (hi - lo + 1).toNat = hi.toNat - lo.toNat + 1 := by
  bv_omega

/-- The sum of two 16-bit offsets fits 17 bits. -/
theorem toNat_offsetSum (a b : BitVec 16) :
    (a.setWidth 17 + b.setWidth 17).toNat = a.toNat + b.toNat := by
  bv_omega

/-- The alternate sub-frame is the flash box of frame 0, with the indices of the alternate grid there. -/
theorem altSub_shows (s : State) :
    let f := frameDesc s.ctl 0
    let b := frameSet s 0
    let g := altSub s
    b.minx.toNat ≤ b.maxx.toNat → b.miny.toNat ≤ b.maxy.toNat → b.maxx.toNat < f.cropW.toNat →
    b.maxy.toNat < f.cropH.toNat →
      g.w.toNat = b.maxx.toNat - b.minx.toNat + 1 ∧ g.h.toNat = b.maxy.toNat - b.miny.toNat + 1 ∧
        g.x.toNat = f.offX.toNat + b.minx.toNat ∧ g.y.toNat = f.offY.toNat + b.miny.toNat ∧
        g.delay = f.delay ∧
        ∀ y x, y < g.h.toNat → x < g.w.toNat →
          idxAt g y x =
            indexMap s.ctl s.pl
              (gridAt (Config.gridUnwritten (b.miny.toNat + y) (b.minx.toNat + x)) b.alt
                (b.miny.toNat + y) (b.minx.toNat + x)) := by
  intro f b g hx hy hw hh
  exact ⟨toNat_boxSide b.minx b.maxx f.cropW hx hw, toNat_boxSide b.miny b.maxy f.cropH hy hh,
    toNat_offsetSum f.offX b.minx, toNat_offsetSum f.offY b.miny, rfl,
    fun y x hrow hcol => gridAt_gridOf _ _ _ _ y x hrow hcol⟩

/-! ## `ASSEMBLE` (R145, R206, R250) -/

/-- The state after an `ASSEMBLE`. -/
def assembled (s : State) : State :=
  { s with
    sf := subFrames s
    nsub := BitVec.ofNat 8 (subFrames s).length
    flg :=
      { s.flg with
        tflag := if s.flg.efmt = 1 then s.flg.tflag else tflagFor s.ctl s.pl.hasTrans }
    pc := { s.pc with phase := if s.flg.efmt = 1 then phaseSig else phaseGhdr } }

theorem exec_assemble (s : State) : exec .assemble s = .next (assembled s) :=
  congrArg Host.Outcome.next (toEncoder_eq _)

theorem subFrames_one_of_box {s : State} (hn : s.ctl.nframes = 1) (hbox : (frameSet s 0).boxv = true) :
    subFrames s = [frameSub s 0, altSub s] := by
  rw [subFrames, if_pos hn, if_pos hbox]

theorem subFrames_one_of_noBox {s : State} (hn : s.ctl.nframes = 1)
    (hbox : (frameSet s 0).boxv = false) : subFrames s = [frameSub s 0] := by
  rw [subFrames, if_pos hn, hbox]
  rfl

theorem subFrames_several {s : State} (hn : 2 ≤ s.ctl.nframes.toNat) :
    subFrames s = (List.range s.ctl.nframes.toNat).map (frameSub s) :=
  if_neg fun h => absurd (h ▸ hn) (by decide)

/-- The table that `ASSEMBLE` leaves reads as the list that it built. -/
theorem subFrame_assembled {s : State} {l : List SubFrame} {k : Nat} {g : SubFrame}
    (h : subFrames s = l) (hk : l[k]? = some g) : subFrame (assembled s) k = g := by
  change (subFrames s).getD k SubFrame.blank = g
  rw [h, List.getD_eq_getElem?_getD, hk, Option.getD_some]

/-- Settles O21: with a flash box there are the frame and its alternate, without one the frame alone. -/
theorem assembleOneFrame : Obligations.AssembleOneFrame := by
  intro s f b hn hinside
  refine ⟨assembled s, exec_assemble s, ?_⟩
  cases hbox : b.boxv with
  | true =>
    have hsub := subFrames_one_of_box hn hbox
    obtain ⟨hx, hy, hw, hh⟩ := hinside hbox
    refine ⟨?_, congrArg List.length hsub, ?_, fun _ => ?_⟩
    · rw [assembled, hsub]; rfl
    · rw [subFrame_assembled hsub rfl]
      exact frameSub_shows s 0
    · rw [subFrame_assembled hsub rfl]
      exact altSub_shows s hx hy hw hh
  | false =>
    have hsub := subFrames_one_of_noBox hn hbox
    refine ⟨?_, congrArg List.length hsub, ?_, nofun⟩
    · rw [assembled, hsub]; rfl
    · rw [subFrame_assembled hsub rfl]
      exact frameSub_shows s 0

/-- Settles O22: entry `i` of the table is the sub-frame made from frame `i`. -/
theorem assembleSeveralFrames : Obligations.AssembleSeveralFrames := by
  intro s hn
  have hsub := subFrames_several hn
  have hlen : (subFrames s).length = s.ctl.nframes.toNat := by
    rw [hsub, List.length_map, List.length_range]
  refine ⟨assembled s, exec_assemble s, ?_, hlen, fun i hi => ?_⟩
  · rw [assembled, hlen, BitVec.ofNat_toNat, BitVec.setWidth_eq]
    rfl
  · have hget : ((List.range s.ctl.nframes.toNat).map (frameSub s))[i]? = some (frameSub s i) := by
      rw [List.getElem?_map, List.getElem?_range hi, Option.map_some]
    rw [subFrame_assembled hsub hget]
    exact frameSub_shows s i

end Sys2Proof.Machine
end

section
/-! The CRC unit, the framing and the port (R160 to R163, R176): a table update is eight rounds of the
bit-serial division, which is linear over exclusive or; and what `CRC32`, `CHUNK` and `DEFLATE` answer
when executed alone. -/

namespace Sys2Proof.Machine

/-! ## The division (R161, R162) -/

/-- A round is linear over exclusive or. -/
theorem crcRound_xor (a b : BitVec 32) : crcRound (a ^^^ b) = crcRound a ^^^ crcRound b := by
  have hcancel (u v p : BitVec 32) : u ^^^ p ^^^ (v ^^^ p) = u ^^^ v := by
    rw [BitVec.xor_assoc, BitVec.xor_comm v p, ← BitVec.xor_assoc p, BitVec.xor_self, BitVec.zero_xor]
  simp only [crcRound, BitVec.getLsbD_xor, BitVec.ushiftRight_xor_distrib]
  cases a.getLsbD 0 <;> cases b.getLsbD 0
  case true.true => simp [hcancel]
  case false.false => simp
  case true.false | false.true =>
    simp only [Bool.xor_false, Bool.false_xor, Bool.false_eq_true, if_true, if_false]
    ac_rfl

/-- Several rounds are linear too. -/
theorem crcRound_iterate_xor (n : Nat) (a b : BitVec 32) :
    crcRound^[n] (a ^^^ b) = crcRound^[n] a ^^^ crcRound^[n] b := by
  induction n generalizing a b with
  | zero => rfl
  | succ n ih => simp only [Function.iterate_succ_apply, crcRound_xor, ih]

/-- As long as the bits that fall out are 0 the division only shifts. -/
theorem crcRound_iterate_of_low_zero (n : Nat) (a : BitVec 32) (h : ∀ i, i < n → a.getLsbD i = false) :
    crcRound^[n] a = a >>> n := by
  induction n generalizing a with
  | zero => exact (BitVec.ushiftRight_zero a).symm
  | succ n ih =>
    have hround : crcRound a = a >>> 1 := if_neg (by rw [h 0 n.succ_pos]; decide)
    have hlow : ∀ i, i < n → (a >>> 1).getLsbD i = false := fun i hi => by
      rw [BitVec.getLsbD_ushiftRight]
      exact h (1 + i) (by omega)
    rw [Function.iterate_succ_apply, hround, ih _ hlow, ← BitVec.shiftRight_add, Nat.add_comm]

/-- A word is its low byte and its other bits. -/
theorem lowByte_xor_high (a : BitVec 32) :
    a = (a.extractLsb' 0 8).setWidth 32 ^^^ (a >>> 8) <<< 8 := by
  ext i hi
  by_cases hlow : i < 8
  · simp [hlow, BitVec.getLsbD_eq_getElem hi]
  · simp [hlow, Nat.add_sub_cancel' (Nat.not_lt.1 hlow), BitVec.getLsbD_eq_getElem hi]

/-- Eight rounds of a word: the table entry of its low byte, and the other bits shifted down. -/
theorem crcRound_iterate_eight (a : BitVec 32) :
    crcRound^[8] a = crcTab (a.extractLsb' 0 8) ^^^ a >>> 8 := by
  have hhigh : crcRound^[8] ((a >>> 8) <<< 8) = a >>> 8 := by
    rw [crcRound_iterate_of_low_zero 8 _ fun i hi => by simp [hi]]
    ext i hi
    simpa [Nat.add_comm 8 i] using BitVec.lt_of_getLsbD (x := a) (i := i + 8)
  calc crcRound^[8] a
      = crcRound^[8] ((a.extractLsb' 0 8).setWidth 32 ^^^ (a >>> 8) <<< 8) := by
        rw [← lowByte_xor_high a]
    _ = crcTab (a.extractLsb' 0 8) ^^^ a >>> 8 := by
        rw [crcRound_iterate_xor, hhigh]; rfl

/-- Settles O25: the byte added in reaches the low bits only, so the bits shifted down are the register's. -/
theorem crcTableIsBitSerial : Obligations.CrcTableIsBitSerial := by
  intro c x
  have hbyte : (c ^^^ x.setWidth 32) >>> 8 = c >>> 8 := by
    ext i hi
    simp [Nat.add_comm 8 i]
  calc crcStep c x = crcRound^[8] (c ^^^ x.setWidth 32) := by
        rw [crcRound_iterate_eight, hbyte, crcStep]

/-! ## `CRC32`, `CHUNK` and `DEFLATE` alone -/

/-- The run of the rule, which cuts the table index out by its width, is the unit's. -/
theorem crcRegister_eq_foldl (b : Bytes) :
    b.foldl (fun (c : BitVec 32) (x : Byte) =>
      crcTab ((c ^^^ x.setWidth 32).setWidth 8) ^^^ (c >>> 8)) 0xFFFFFFFF#32 = crcRegister b := by
  have hindex (a : BitVec 32) : a.setWidth 8 = a.extractLsb' 0 8 := by ext i hi; simp
  simp only [hindex]
  rfl

/-- Settles O24: the unit runs `crcStep` over the bytes and complements what is left. -/
theorem crc32RunsTheTable : Obligations.Crc32RunsTheTable := by
  intro b s
  rw [crcRegister_eq_foldl]
  rfl

/-- A chunk is 12 bytes more than its data (R163). -/
theorem chunkBytes_length (type : BitVec 32) (data : Bytes) :
    (chunkBytes type data).length = 12 + data.length := by
  simp only [chunkBytes, List.length_append, be32_length]
  omega

theorem exec_chunk (type : BitVec 32) (data : Bytes) (s : State) :
    exec (.chunk type data) s = .next (chunk type data s) := rfl

/-- Settles O26: `CHUNK` puts the parts of a chunk in this order, and none of its operations looks at
anything but `OUT` and `CRC`. -/
theorem chunkFramesTypeAndData : Obligations.ChunkFramesTypeAndData := by
  intro type data s _
  have hparts : be32 (BitVec.ofNat 32 data.length) ++ be32 type ++ data ++
      be32 (crc32 (be32 type ++ data)) = chunkBytes type data := by
    simp only [chunkBytes, List.append_assoc]
  rw [hparts]
  exact ⟨exec_chunk type data s, chunkBytes_length type data⟩

/-- Settles O30: the round trip and the bound are the port's obligations (b) and (c). -/
theorem deflatePortAnswers : Obligations.DeflatePortAnswers := by
  intro level raw s
  have hexec : exec (.deflate level raw) s =
      .next { s with fout := .bytes (deflate s.par.port level raw) } := rfl
  refine ⟨fun hport => ?_, fun hport => ?_, _, hexec, fun h => inflate_deflate _ level raw h,
    fun h hscan => deflate_fits _ level raw h (.inl hscan),
    fun h hstored => deflate_fits _ level raw h (.inr hstored)⟩
  · rw [hexec, hport]; rfl
  · rw [hexec, hport]; rfl

end Sys2Proof.Machine
end

section
/-! The PNG operations (R164 to R175, R180): one equation each, for the bytes, the registers and the phase
that follows; and what a reader finds in their data chunks (R182). -/

namespace Sys2Proof.Machine

/-! ## The guards and the choices (R167, R168, R180) -/

theorem animated_iff (s : State) : animated s = true ↔ 2 ≤ s.nsub.toNat := by
  rw [animated, decide_eq_true_eq]

theorem emitsTrns_iff (s : State) :
    emitsTrns s = true ↔ s.ctl.cfgPng.alpha.toNat < 255 ∧ s.pl.hasTrans = true := by
  rw [emitsTrns, Bool.and_eq_true, decide_eq_true_eq]

theorem goto_ite (c : Prop) [Decidable c] (p q : BitVec 6) (s : State) :
    goto (if c then p else q) s = if c then goto p s else goto q s := by
  split_ifs <;> rfl

/-- Where the PNG loop over the sub-frames stands before sub-frame `k` (R180). -/
def pngLoopPc (nsub : BitVec 8) (pc : Pc) (k : Nat) : Pc :=
  if k < nsub.toNat then { pc with phase := phaseFctl, k := BitVec.ofNat 8 k }
  else { pc with phase := phaseIend }

/-! ## The operations -/

/-- A numbered chunk (R169, R173): it is written and `SEQ` goes up by one. -/
theorem bumpSeq_chunk (type : BitVec 32) (data : Bytes) (s : State) :
    bumpSeq (chunk type data s) = { s with
      out := s.out ++ chunkBytes type data
      png := { s.png with crc := crcRegister (be32 type ++ data), seq := s.png.seq + 1 } } := rfl

theorem exec_sig (s : State) : exec .sig s = .next (goto phaseIhdr (emit pngSignature s)) := rfl

theorem exec_ihdr (s : State) :
    exec .ihdr s = .next (goto phasePlte (chunk typeIhdr
      (ihdrData (subFrame s 0) (depthFor (paletteLen s.ctl s.pl)))
      { s with png := { s.png with depth := depthFor (paletteLen s.ctl s.pl) } })) := rfl

/-- `PLTE`, then the first of `tRNS`, `acTL`, `IDAT` whose guard holds. -/
theorem exec_plte (s : State) :
    exec .plte s = .next (goto
      (if emitsTrns s then phaseTrns else if animated s then phaseActl else phaseIdat)
      (chunk typePlte (plteData (palette s.ctl s.pl)) s)) := by
  rw [goto_ite, goto_ite]
  rfl

theorem exec_trns (s : State) :
    exec .trns s = .next (goto (if animated s then phaseActl else phaseIdat)
      (chunk typeTrns [s.ctl.cfgPng.alpha] s)) := by
  rw [goto_ite]
  rfl

theorem exec_actl (s : State) :
    exec .actl s = .next (gotoSub phaseFctl 0 (chunk typeActl (actlData s.nsub) s)) := rfl

theorem exec_fctl (s : State) :
    exec .fctl s = .next (goto (if s.pc.k = 0 then phaseIdat else phaseFdat)
      (bumpSeq (chunk typeFctl (fctlData s.png.seq (subFrame s s.pc.k.toNat)) s))) := by
  rw [goto_ite]
  rfl

theorem exec_idat (s : State) :
    exec .idat s = .next { chunk typeIdat (compressed s 0) s with pc := pngLoopPc s.nsub s.pc 1 } :=
  congrArg Host.Outcome.next (pngLoop_eq 1 _)

theorem exec_fdat (s : State) :
    exec .fdat s = .next
      { s with
        out := s.out ++ chunkBytes typeFdat (be32 s.png.seq ++ compressed s s.pc.k.toNat)
        png :=
          { s.png with
            crc := crcRegister (be32 typeFdat ++ (be32 s.png.seq ++ compressed s s.pc.k.toNat))
            seq := s.png.seq + 1 }
        pc := pngLoopPc s.nsub s.pc (s.pc.k.toNat + 1) } := by
  rw [exec, execFdat, bumpSeq_chunk, pngLoop_eq]
  rfl

theorem exec_iend (s : State) : exec .iend s = .next (goto phaseFinish (chunk typeIend [] s)) := rfl

/-- Settles O31 by the equations of the three operations, the guards read as conditions. -/
theorem pngHeaderOperations : Obligations.PngHeaderOperations := by
  intro s
  refine ⟨exec_sig s, exec_ihdr s, ?_⟩
  rw [exec_plte]
  simp only [emitsTrns_iff, animated_iff]
  rfl

/-- Settles O32 by the equations of the three operations. -/
theorem pngControlOperations : Obligations.PngControlOperations := by
  intro s
  refine ⟨?_, exec_actl s, ?_⟩
  · rw [exec_trns]
    simp only [animated_iff]
    rfl
  · exact exec_fctl s

/-- R81: `IEND` is a constant, and so is what its type leaves in `CRC`. -/
theorem crcRegister_iend : crcRegister (be32 typeIend) = 0x51BD9F7D := by decide +kernel

theorem chunkBytes_iend :
    chunkBytes typeIend [] = [0x00, 0x00, 0x00, 0x00, 0x49, 0x45, 0x4E, 0x44, 0xAE, 0x42, 0x60, 0x82] := by
  have hcrc : crc32 (be32 typeIend) = 0xAE426082 := by rw [crc32, crcRegister_iend]; rfl
  rw [chunkBytes, List.append_nil, hcrc]
  rfl

/-- The next value of `K`, which wraps as the register does. -/
theorem ofNat_toNat_succ (k : BitVec 8) : BitVec.ofNat 8 (k.toNat + 1) = k + 1 := by
  bv_omega

/-- A depth of 1, 2 or 4 makes a pixel stream of the block, and the port's answer to such a stream fits a
data chunk with the four bytes of `SEQ` to spare (R176 (c)). -/
theorem compressed_fits (s : State) (k : Nat) (hlevel : s.ctl.cfgPng.compLevel.toNat ≤ 9)
    (h : (s.par.port = .external ∧ (s.png.depth = 1 ∨ s.png.depth = 2 ∨ s.png.depth = 4)) ∨
      Config.storedLength (packScan (subFrame s k) s.png.depth.toNat).length + 4 < 2 ^ 31) :
    (compressed s k).length + 4 < 2 ^ 31 := by
  refine deflate_fits _ _ _ hlevel (h.imp_left fun ⟨hport, hdepth⟩ => ⟨hport, packScan_scanlines _ _ ?_⟩)
  obtain hd | hd | hd := hdepth <;> simp [hd]

/-- Settles O33: the operations by their equations, the round trip by R176 (b), and the reader by O27, since
the data of both chunks stays below 2^31 bytes. -/
theorem pngDataOperations : Obligations.PngDataOperations := by
  intro s
  refine ⟨exec_idat s, ?_, ?_, fun hlevel k => ⟨inflate_deflate _ _ _ hlevel, fun hfits rest => ?_⟩⟩
  · rw [exec_fdat, pngLoopPc, ofNat_toNat_succ]
    rfl
  · rw [exec_iend, chunk, List.append_nil, crcRegister_iend, chunkBytes_iend]
    rfl
  · have hlen := compressed_fits s k hlevel hfits
    have hdata : (be32 s.png.seq ++ compressed s k).length < 2 ^ 31 := by
      rw [List.length_append, be32_length]
      omega
    obtain ⟨hread, -⟩ := chunkReadsBack
    exact ⟨hread typeIdat (compressed s k) rest (by omega), hread typeFdat _ rest hdata⟩

end Sys2Proof.Machine
end

section
/-! The APNG sequence number (R171): what `SequenceInv` asks in each phase, and that every step keeps it. -/

namespace Sys2Proof.Machine

/-! ## The invariant by phase -/

/-- The phases up to the first fcTL, in which no number has been given (R171), `acTL` aside. -/
def uncountedPhases : List (BitVec 6) :=
  [phaseValidate, phaseRaster, phaseAssemble, phaseSig, phaseGhdr, phaseIhdr, phasePlte, phaseTrns]

/-- The phases other than IDLE in which the number is free: FINISH and the GIF records after `GHDR`. -/
def unnumberedPhases : List (BitVec 6) :=
  [phaseLsd, phaseGct, phaseAppext, phaseGce, phaseImgdesc, phaseImgdata, phaseTrailer, phaseFinish]

theorem sequenceInv_of_unnumbered {s : State} (hphase : s.pc.phase ∈ unnumberedPhases) : SequenceInv s := by
  unfold SequenceInv beforeFirstEmit
  generalize s.pc.phase = p at hphase ⊢
  have hfree : ∀ p ∈ unnumberedPhases, p ∉ uncountedPhases ++
      [phaseActl, phaseFctl, phaseIdat, phaseFdat, phaseIend] := by decide
  have hnone := hfree p hphase
  simp only [uncountedPhases, List.cons_append, List.nil_append, List.mem_cons, List.not_mem_nil,
    or_false, not_or] at hnone
  simp [hnone]

theorem sequenceInv_iff_of_uncounted {s : State} (hphase : s.pc.phase ∈ uncountedPhases) :
    SequenceInv s ↔ s.png.seq = 0 := by
  unfold SequenceInv beforeFirstEmit
  simp only [uncountedPhases, List.mem_cons, List.not_mem_nil, or_false] at hphase
  rcases hphase with h | h | h | h | h | h | h | h <;> simp +decide [h]

theorem sequenceInv_iff_actl {s : State} (hphase : s.pc.phase = phaseActl) :
    SequenceInv s ↔ 2 ≤ s.nsub.toNat ∧ s.png.seq = 0 := by
  unfold SequenceInv beforeFirstEmit
  simp +decide [hphase]

theorem sequenceInv_iff_fctl {s : State} (hphase : s.pc.phase = phaseFctl) :
    SequenceInv s ↔ 2 ≤ s.nsub.toNat ∧ s.pc.k.toNat < s.nsub.toNat ∧
      s.png.seq.toNat = 2 * s.pc.k.toNat - 1 := by
  unfold SequenceInv beforeFirstEmit
  simp +decide [hphase]

theorem sequenceInv_iff_idat {s : State} (hphase : s.pc.phase = phaseIdat) :
    SequenceInv s ↔ s.png.seq.toNat = if 2 ≤ s.nsub.toNat then 1 else 0 := by
  unfold SequenceInv beforeFirstEmit
  simp +decide [hphase]

theorem sequenceInv_iff_fdat {s : State} (hphase : s.pc.phase = phaseFdat) :
    SequenceInv s ↔ 1 ≤ s.pc.k.toNat ∧ s.pc.k.toNat < s.nsub.toNat ∧
      s.png.seq.toNat = 2 * s.pc.k.toNat := by
  unfold SequenceInv beforeFirstEmit
  simp +decide [hphase]

theorem sequenceInv_iff_iend {s : State} (hphase : s.pc.phase = phaseIend) :
    SequenceInv s ↔ s.png.seq.toNat = if 2 ≤ s.nsub.toNat then 2 * s.nsub.toNat - 1 else 0 := by
  unfold SequenceInv beforeFirstEmit
  simp +decide [hphase]

/-! ## Before the first number, and where there is none -/

/-- The operations that stand before `PLTE` on either way through the encoders. -/
def isUncounted : Instr → Bool
  | .validate | .raster | .assemble | .sig | .ihdr => true
  | _ => false

/-- The operations after which the number is free: those of the GIF encoder, `IEND` and `FINISH`. -/
def endsNumbering : Instr → Bool
  | .ghdr | .lsd | .gct | .appext | .gce | .imgdesc | .imgdata | .trailer | .iend | .finish => true
  | _ => false

theorem uncounted_of_encode (i : Instr) (hi : isUncounted i = true) (p : BitVec 6)
    (henc : encode i = some (.phase p)) : p ∈ uncountedPhases := by
  cases i with
  | validate | raster | assemble | sig | ihdr => cases henc; decide
  | _ => cases hi

theorem successors_uncounted (i : Instr) (hi : isUncounted i = true) (p : BitVec 6) :
    ∀ q ∈ successors i p, q ∈ uncountedPhases := by
  have hall : (successors i p).all (· ∈ uncountedPhases) = true := by
    cases i with
    | validate | raster | assemble | sig | ihdr => rfl
    | _ => cases hi
  simpa using hall

theorem successors_unnumbered (i : Instr) (hi : endsNumbering i = true) (p : BitVec 6) :
    ∀ q ∈ successors i p, q ∈ unnumberedPhases := by
  have hall : (successors i p).all (· ∈ unnumberedPhases) = true := by
    cases i with
    | ghdr | lsd | gct | appext | gce | imgdesc | imgdata | trailer | iend | finish => rfl
    | _ => cases hi
  simpa using hall

/-- No operation before `PLTE` writes `SEQ`. -/
theorem seq_of_uncounted (i : Instr) (hi : isUncounted i = true) (s t : State) (h : exec i s = .next t) :
    t.png.seq = s.png.seq := by
  cases i with
  | validate =>
    rw [exec, execValidate] at h
    split at h
    · cases h; rfl
    · cases h; rw [rasterLoop_eq]
  | raster =>
    obtain h | ⟨c, -, rfl⟩ := (Flow.toOutcome_eq_next _ _ _).1 h
    · obtain ⟨g, -, h⟩ := (Flow.andThen_eq_ok _ _ _).1 h
      cases h; rw [rasterLoop_eq]
    · rfl
  | assemble => rw [exec_assemble] at h; cases h; rfl
  | sig | ihdr => cases h; rfl
  | _ => cases hi

/-- An operation that goes on to a phase of its successors, or ends in IDLE, does as they ask. -/
theorem sequenceInv_of_effect (i : Instr) (s t : State) (hi : ∀ fmt, i ≠ .write fmt)
    (h : exec i s = .next t) (hworks : t.pc.phase ∈ successors i s.pc.phase → SequenceInv t) :
    SequenceInv t := by
  cases exec_effect i s t h with
  | works w => exact hworks w.phase
  | done _ ht | error _ _ _ ht | fault _ _ ht => subst ht; exact sequenceInv_of_idle _ rfl
  | unsupported fmt hw | accepted fmt _ hw => exact absurd hw (hi fmt)

theorem sequenceInv_uncounted (i : Instr) (hi : isUncounted i = true) (s t : State) (hs : SequenceInv s)
    (hphase : s.pc.phase ∈ uncountedPhases) (h : exec i s = .next t) : SequenceInv t := by
  refine sequenceInv_of_effect i s t (by rintro fmt rfl; cases hi) h fun hnext => ?_
  rw [sequenceInv_iff_of_uncounted (successors_uncounted i hi _ _ hnext), seq_of_uncounted i hi s t h]
  exact (sequenceInv_iff_of_uncounted hphase).1 hs

theorem sequenceInv_endsNumbering (i : Instr) (hi : endsNumbering i = true) (s t : State)
    (h : exec i s = .next t) : SequenceInv t :=
  sequenceInv_of_effect i s t (by rintro fmt rfl; cases hi) h fun hnext =>
    sequenceInv_of_unnumbered (successors_unnumbered i hi _ _ hnext)

/-! ## The numbered part (R169, R173, R180) -/

/-- After `PLTE` and `tRNS` comes `acTL` when there are several sub-frames, and none is numbered yet. -/
theorem sequenceInv_afterTrns {s t : State} (hnsub : t.nsub = s.nsub)
    (hphase : t.pc.phase = if animated s then phaseActl else phaseIdat) (hseq : t.png.seq = 0) :
    SequenceInv t := by
  split_ifs at hphase with hanim <;> rw [animated_iff, ← hnsub] at hanim
  · exact (sequenceInv_iff_actl hphase).2 ⟨hanim, hseq⟩
  · exact (sequenceInv_iff_idat hphase).2 (by rw [if_neg hanim, hseq]; rfl)

/-- Before sub-frame `k` of the loop the numbers of the sub-frames before it have been given. -/
theorem sequenceInv_pngLoop {s t : State} (k : Nat) (hpc : t.pc = pngLoopPc s.nsub s.pc k)
    (hnsub : t.nsub = s.nsub) (hpos : 1 ≤ k) (hle : 2 ≤ s.nsub.toNat → k ≤ s.nsub.toNat)
    (hseq : t.png.seq.toNat = if 2 ≤ s.nsub.toNat then 2 * k - 1 else 0) : SequenceInv t := by
  have hlt := s.nsub.isLt
  unfold pngLoopPc at hpc
  split_ifs at hpc with hk
  · have hanim : 2 ≤ s.nsub.toNat := by omega
    have hsub : t.pc.k.toNat = k := by rw [hpc]; exact Nat.mod_eq_of_lt (by omega)
    rw [sequenceInv_iff_fctl (by rw [hpc]), hsub, hnsub, hseq, if_pos hanim]
    exact ⟨hanim, hk, rfl⟩
  · rw [sequenceInv_iff_iend (by rw [hpc]), hnsub, hseq]
    split_ifs with hanim
    · rw [Nat.le_antisymm (hle hanim) (Nat.not_lt.1 hk)]
    · rfl

theorem sequenceInv_plte (s t : State) (hs : SequenceInv s) (hphase : s.pc.phase = phasePlte)
    (h : exec .plte s = .next t) : SequenceInv t := by
  have hseq : s.png.seq = 0 := (sequenceInv_iff_of_uncounted (by rw [hphase]; decide)).1 hs
  rw [exec_plte] at h
  cases h
  by_cases htrns : emitsTrns s = true
  · have hnext : phaseTrns ∈ uncountedPhases := by decide
    exact (sequenceInv_iff_of_uncounted (by rwa [goto_pc, if_pos htrns])).2 hseq
  · exact sequenceInv_afterTrns (s := s) rfl (by rw [goto_pc, if_neg htrns]) hseq

theorem sequenceInv_trns (s t : State) (hs : SequenceInv s) (hphase : s.pc.phase = phaseTrns)
    (h : exec .trns s = .next t) : SequenceInv t := by
  have hseq : s.png.seq = 0 := (sequenceInv_iff_of_uncounted (by rw [hphase]; decide)).1 hs
  rw [exec_trns] at h
  cases h
  exact sequenceInv_afterTrns (s := s) rfl rfl hseq

theorem sequenceInv_actl (s t : State) (hs : SequenceInv s) (hphase : s.pc.phase = phaseActl)
    (h : exec .actl s = .next t) : SequenceInv t := by
  obtain ⟨hanim, hseq⟩ := (sequenceInv_iff_actl hphase).1 hs
  rw [exec_actl] at h
  cases h
  have hsub : 0 < s.nsub.toNat := by omega
  exact (sequenceInv_iff_fctl rfl).2 ⟨hanim, hsub, congrArg BitVec.toNat hseq⟩

/-- The number goes up at each fcTL: sub-frame 0 is then at its IDAT, a later one at its fdAT. -/
theorem sequenceInv_fctl (s t : State) (hs : SequenceInv s) (hphase : s.pc.phase = phaseFctl)
    (h : exec .fctl s = .next t) : SequenceInv t := by
  obtain ⟨hanim, hk, hseq⟩ := (sequenceInv_iff_fctl hphase).1 hs
  have hlt := s.nsub.isLt
  have hbump : (s.png.seq + 1).toNat = 2 * s.pc.k.toNat - 1 + 1 := by
    rw [← hseq]; bv_omega
  rw [exec_fctl, bumpSeq_chunk] at h
  cases h
  by_cases hzero : s.pc.k = 0
  · have hone : (s.png.seq + 1).toNat = if 2 ≤ s.nsub.toNat then 1 else 0 := by
      rw [if_pos hanim, hbump, hzero]; rfl
    exact (sequenceInv_iff_idat (if_pos hzero)).2 hone
  · have hpos : 1 ≤ s.pc.k.toNat := by bv_omega
    have hdouble : 2 * s.pc.k.toNat - 1 + 1 = 2 * s.pc.k.toNat := by omega
    exact (sequenceInv_iff_fdat (if_neg hzero)).2 ⟨hpos, hk, hbump.trans hdouble⟩

theorem sequenceInv_idat (s t : State) (hs : SequenceInv s) (hphase : s.pc.phase = phaseIdat)
    (h : exec .idat s = .next t) : SequenceInv t := by
  have hseq := (sequenceInv_iff_idat hphase).1 hs
  rw [exec_idat] at h
  cases h
  exact sequenceInv_pngLoop 1 rfl rfl Nat.le.refl (fun hanim => by omega) hseq

theorem sequenceInv_fdat (s t : State) (hs : SequenceInv s) (hphase : s.pc.phase = phaseFdat)
    (h : exec .fdat s = .next t) : SequenceInv t := by
  obtain ⟨hpos, hk, hseq⟩ := (sequenceInv_iff_fdat hphase).1 hs
  have hlt := s.nsub.isLt
  have hbump : (s.png.seq + 1).toNat = 2 * s.pc.k.toNat + 1 := by
    rw [← hseq]; bv_omega
  rw [exec_fdat] at h
  cases h
  exact sequenceInv_pngLoop (s.pc.k.toNat + 1) rfl rfl (by omega) (fun _ => hk)
    (by rw [if_pos (by omega)]; exact hbump)

/-- The operation that `PHASE` names keeps the numbering. -/
theorem sequenceInv_operation (i : Instr) (s t : State) (hs : SequenceInv s)
    (hi : decodePhase s.pc.phase = .ok i) (h : exec i s = .next t) : SequenceInv t := by
  have henc := encode_of_decodePhase _ i hi
  have hphase (p : BitVec 6) (hp : encode i = some (.phase p)) : s.pc.phase = p :=
    Encoded.phase.inj (Option.some.inj (henc.symm.trans hp))
  cases i with
  | idle => cases h; exact hs
  | validate | raster | assemble | sig | ihdr =>
    exact sequenceInv_uncounted _ rfl s t hs (uncounted_of_encode _ rfl _ henc) h
  | ghdr | lsd | gct | appext | gce | imgdesc | imgdata | trailer | iend | finish =>
    exact sequenceInv_endsNumbering _ rfl s t h
  | plte => exact sequenceInv_plte s t hs (hphase _ rfl) h
  | trns => exact sequenceInv_trns s t hs (hphase _ rfl) h
  | actl => exact sequenceInv_actl s t hs (hphase _ rfl) h
  | fctl => exact sequenceInv_fctl s t hs (hphase _ rfl) h
  | idat => exact sequenceInv_idat s t hs (hphase _ rfl) h
  | fdat => exact sequenceInv_fdat s t hs (hphase _ rfl) h
  | _ => cases henc

/-- A `WRITE` that completes is in IDLE with an error, or starts with the number 0 (R46). -/
theorem sequenceInv_write (fmt : BitVec 2) (s t : State) (h : exec (.write fmt) s = .next t) :
    SequenceInv t := by
  obtain ⟨-, rfl⟩ | ⟨efmt, -, rfl⟩ := execWrite_cases fmt s t h
  · exact sequenceInv_of_idle _ rfl
  · exact (sequenceInv_iff_of_uncounted (by decide : phaseValidate ∈ uncountedPhases)).2 rfl

/-- Settles O34: each operation leaves the number that its successor asks for, and of the host's accesses
only `CMD` and reset touch anything that the invariant speaks of. -/
theorem sequenceNumbersKept : Obligations.SequenceNumbersKept := by
  intro s t hs hstep
  cases step_effect s t hstep with
  | operation hp i hi h => exact sequenceInv_operation i { s with host := hp } t hs hi h
  | write hp fmt _ h => exact sequenceInv_write fmt _ t h
  | register _ _ _ _ ht | port _ ht | memory _ _ _ ht => subst ht; exact hs
  | reset _ ht => subst ht; exact sequenceInv_of_idle _ rfl

end Sys2Proof.Machine
end

section
/-! The PNG file (R180, R181): the run from `SIG`, one rule per operation, and the length of what it
writes. -/

namespace Sys2Proof.Machine

/-! ## The run -/

/-- Some number of steps from `s` appends `added` to `OUT` and leaves `SEQ`, `DEPTH` and the program
counter as given, and nothing but these and `CRC` has changed. -/
def PngWrites (s : State) (added : Bytes) (seq : BitVec 32) (depth : BitVec 4) (pc : Pc) : Prop :=
  ∃ n crc, steps n s = .next { s with
    out := s.out ++ added, png := { crc := crc, seq := seq, depth := depth }, pc := pc }

/-- One step more at the end of a run. -/
theorem steps_succ_of_next (n : Nat) (s t : State) (h : steps n s = .next t) :
    steps (n + 1) s = step t := by
  induction n generalizing s with
  | zero =>
    cases h
    rw [steps]
    cases step t <;> rfl
  | succ n ih =>
    rw [steps] at h ⊢
    cases hstep : step s with
    | next u => rw [hstep] at h; exact ih u h
    | fault r | refused r => rw [hstep] at h; cases h

/-- With no access to come that step runs the operation that `PHASE` names. -/
theorem steps_succ_of_operation (n : Nat) (s t : State) (i : Instr) (h : steps n s = .next t)
    (hq : t.host.queue = []) (hi : decodePhase t.pc.phase = .ok i) : steps (n + 1) s = exec i t := by
  rw [steps_succ_of_next n s t h, step_of_empty t hq, seqStep_of_decodePhase t i hi]

theorem PngWrites.start (s : State) : PngWrites s [] s.png.seq s.png.depth s.pc :=
  ⟨0, s.png.crc, by rw [List.append_nil]; rfl⟩

/-! ## The parts of the file (R180) -/

/-- The depth that `IHDR` chooses (R165). -/
def pngDepth (s : State) : BitVec 4 := depthFor (paletteLen s.ctl s.pl)

/-- The data of sub-frame `k`, packed and compressed (R172, R173). -/
def pngData (s : State) (k : Nat) : Bytes :=
  deflate s.par.port s.ctl.cfgPng.compLevel (packScan (subFrame s k) (pngDepth s).toNat)

/-- What stands before the chunks of the sub-frames: up to `tRNS`. -/
def pngHeader (s : State) : Bytes :=
  pngSignature ++ chunkBytes typeIhdr (ihdrData (subFrame s 0) (pngDepth s)) ++
    chunkBytes typePlte (plteData (palette s.ctl s.pl)) ++
    if emitsTrns s then chunkBytes typeTrns [s.ctl.cfgPng.alpha] else []

/-- What makes the file an animation: `acTL` and the first fcTL. -/
def pngAnimation (s : State) : Bytes :=
  if animated s then
    chunkBytes typeActl (actlData s.nsub) ++ chunkBytes typeFctl (fctlData 0 (subFrame s 0))
  else []

theorem pngFile_eq (s : State) :
    pngFile s = pngHeader s ++ pngAnimation s ++ chunkBytes typeIdat (pngData s 0) ++
      (List.range (s.nsub.toNat - 1)).flatMap (fun j => pngLaterChunks s (pngDepth s) (j + 1)) ++
      chunkBytes typeIend [] := rfl

/-! ## The operations in a run -/

section
variable {s : State} {added : Bytes} {seq : BitVec 32} {depth : BitVec 4} {pc : Pc}

/-- The run goes on by the operation that `PHASE` names, which appends `b`. -/
theorem PngWrites.operation (h : PngWrites s added seq depth pc) (hq : s.host.queue = []) (i : Instr)
    (hi : decodePhase pc.phase = .ok i) (b : Bytes) (seq' : BitVec 32) (depth' : BitVec 4) (pc' : Pc)
    (hexec : ∀ crc out, ∃ crc',
      exec i { s with out := out, png := { crc := crc, seq := seq, depth := depth }, pc := pc } =
        .next { s with
          out := out ++ b, png := { crc := crc', seq := seq', depth := depth' }, pc := pc' }) :
    PngWrites s (added ++ b) seq' depth' pc' := by
  obtain ⟨n, crc, hrun⟩ := h
  obtain ⟨crc', hlast⟩ := hexec crc (s.out ++ added)
  exact ⟨n + 1, crc', by rw [steps_succ_of_operation n s _ i hrun hq hi, hlast, List.append_assoc]⟩

theorem PngWrites.sig (h : PngWrites s added seq depth pc) (hq : s.host.queue = [])
    (hpc : pc.phase = phaseSig) :
    PngWrites s (added ++ pngSignature) seq depth { pc with phase := phaseIhdr } :=
  h.operation hq .sig (by rw [hpc]; rfl) _ _ _ _ fun crc _ => ⟨crc, exec_sig _⟩

theorem PngWrites.ihdr (h : PngWrites s added seq depth pc) (hq : s.host.queue = [])
    (hpc : pc.phase = phaseIhdr) :
    PngWrites s (added ++ chunkBytes typeIhdr (ihdrData (subFrame s 0) (pngDepth s))) seq (pngDepth s)
      { pc with phase := phasePlte } :=
  h.operation hq .ihdr (by rw [hpc]; rfl) _ _ _ _ fun _ _ => ⟨_, exec_ihdr _⟩

theorem PngWrites.plte (h : PngWrites s added seq depth pc) (hq : s.host.queue = [])
    (hpc : pc.phase = phasePlte) :
    PngWrites s (added ++ chunkBytes typePlte (plteData (palette s.ctl s.pl))) seq depth
      { pc with phase :=
          if emitsTrns s then phaseTrns else if animated s then phaseActl else phaseIdat } :=
  h.operation hq .plte (by rw [hpc]; rfl) _ _ _ _ fun _ _ => ⟨_, exec_plte _⟩

theorem PngWrites.trns (h : PngWrites s added seq depth pc) (hq : s.host.queue = [])
    (hpc : pc.phase = phaseTrns) :
    PngWrites s (added ++ chunkBytes typeTrns [s.ctl.cfgPng.alpha]) seq depth
      { pc with phase := if animated s then phaseActl else phaseIdat } :=
  h.operation hq .trns (by rw [hpc]; rfl) _ _ _ _ fun _ _ => ⟨_, exec_trns _⟩

theorem PngWrites.actl (h : PngWrites s added seq depth pc) (hq : s.host.queue = [])
    (hpc : pc.phase = phaseActl) :
    PngWrites s (added ++ chunkBytes typeActl (actlData s.nsub)) seq depth
      { pc with phase := phaseFctl, k := 0 } :=
  h.operation hq .actl (by rw [hpc]; rfl) _ _ _ _ fun _ _ => ⟨_, exec_actl _⟩

theorem PngWrites.fctl (h : PngWrites s added seq depth pc) (hq : s.host.queue = [])
    (hpc : pc.phase = phaseFctl) :
    PngWrites s (added ++ chunkBytes typeFctl (fctlData seq (subFrame s pc.k.toNat))) (seq + 1) depth
      { pc with phase := if pc.k = 0 then phaseIdat else phaseFdat } :=
  h.operation hq .fctl (by rw [hpc]; rfl) _ _ _ _ fun _ _ => ⟨_, exec_fctl _⟩

theorem PngWrites.idat (h : PngWrites s added seq (pngDepth s) pc) (hq : s.host.queue = [])
    (hpc : pc.phase = phaseIdat) :
    PngWrites s (added ++ chunkBytes typeIdat (pngData s 0)) seq (pngDepth s)
      (pngLoopPc s.nsub pc 1) :=
  h.operation hq .idat (by rw [hpc]; rfl) _ _ _ _ fun _ _ => ⟨_, exec_idat _⟩

theorem PngWrites.fdat (h : PngWrites s added seq (pngDepth s) pc) (hq : s.host.queue = [])
    (hpc : pc.phase = phaseFdat) :
    PngWrites s (added ++ chunkBytes typeFdat (be32 seq ++ pngData s pc.k.toNat)) (seq + 1) (pngDepth s)
      (pngLoopPc s.nsub pc (pc.k.toNat + 1)) :=
  h.operation hq .fdat (by rw [hpc]; rfl) _ _ _ _ fun _ _ => ⟨_, exec_fdat _⟩

theorem PngWrites.iend (h : PngWrites s added seq depth pc) (hq : s.host.queue = [])
    (hpc : pc.phase = phaseIend) :
    PngWrites s (added ++ chunkBytes typeIend []) seq depth { pc with phase := phaseFinish } :=
  h.operation hq .iend (by rw [hpc]; rfl) _ _ _ _ fun _ _ => ⟨_, exec_iend _⟩

end

/-! ## The parts in a run -/

/-- `SIG`, `IHDR`, `PLTE` and `tRNS` write the header. -/
theorem pngWrites_header (s : State) (hq : s.host.queue = []) (hphase : s.pc.phase = phaseSig)
    (hseq : s.png.seq = 0) :
    PngWrites s (pngHeader s) 0 (pngDepth s)
      { s.pc with phase := if animated s then phaseActl else phaseIdat } := by
  have hplte := (((PngWrites.start s).sig hq hphase).ihdr hq rfl).plte hq rfl
  rw [hseq] at hplte
  unfold pngHeader
  by_cases htrns : emitsTrns s = true
  · rw [if_pos htrns] at hplte ⊢
    exact hplte.trns hq rfl
  · rw [if_neg htrns] at hplte ⊢
    rw [List.append_nil]
    exact hplte

/-- `SEQ` when `j` later sub-frames have been written (R171). -/
def seqAfter (s : State) (j : Nat) : BitVec 32 :=
  if animated s then BitVec.ofNat 32 (2 * j + 1) else 0

/-- `acTL` and the first fcTL, if the file is an animation, and `IDAT`. -/
theorem pngWrites_firstSubFrame (s : State) (hq : s.host.queue = []) (added : Bytes)
    (h : PngWrites s added 0 (pngDepth s)
      { s.pc with phase := if animated s then phaseActl else phaseIdat }) :
    ∃ pc, PngWrites s (added ++ pngAnimation s ++ chunkBytes typeIdat (pngData s 0)) (seqAfter s 0)
      (pngDepth s) (pngLoopPc s.nsub pc 1) := by
  unfold pngAnimation seqAfter
  by_cases hanim : animated s = true
  · rw [if_pos hanim] at h
    rw [if_pos hanim, if_pos hanim, ← List.append_assoc]
    exact ⟨_, ((h.actl hq rfl).fctl hq rfl).idat hq rfl⟩
  · rw [if_neg hanim] at h
    rw [if_neg hanim, if_neg hanim, List.append_nil]
    exact ⟨_, h.idat hq rfl⟩

theorem ofNat_succ (n : Nat) : BitVec.ofNat 32 n + 1 = BitVec.ofNat 32 (n + 1) :=
  (BitVec.ofNat_add n 1).symm

/-- `fcTL` and `fdAT` write the chunks of a later sub-frame. -/
theorem pngWrites_laterSubFrame (s : State) (hq : s.host.queue = []) (added : Bytes) (k : Nat)
    (hpos : 1 ≤ k) (hk : k < s.nsub.toNat) (pc : Pc)
    (h : PngWrites s added (BitVec.ofNat 32 (2 * k - 1)) (pngDepth s)
      { pc with phase := phaseFctl, k := BitVec.ofNat 8 k }) :
    PngWrites s (added ++ pngLaterChunks s (pngDepth s) k) (BitVec.ofNat 32 (2 * k + 1)) (pngDepth s)
      (pngLoopPc s.nsub { pc with phase := phaseFdat, k := BitVec.ofNat 8 k } (k + 1)) := by
  have hlt := s.nsub.isLt
  have hsub : (BitVec.ofNat 8 k).toNat = k := Nat.mod_eq_of_lt (by omega)
  have hnonzero : BitVec.ofNat 8 k ≠ 0 := by bv_omega
  have hdouble : 2 * k - 1 + 1 = 2 * k := by omega
  have hfctl := h.fctl hq rfl
  rw [hsub, if_neg hnonzero, ofNat_succ, hdouble] at hfctl
  have hfdat := hfctl.fdat hq rfl
  rw [hsub, ofNat_succ, List.append_assoc] at hfdat
  exact hfdat

/-- The loop over the later sub-frames, `j` times round. -/
theorem pngWrites_loop (s : State) (hq : s.host.queue = []) (added : Bytes) (pc : Pc)
    (h : PngWrites s added (seqAfter s 0) (pngDepth s) (pngLoopPc s.nsub pc 1)) (j : Nat)
    (hj : j ≤ s.nsub.toNat - 1) :
    ∃ pc', PngWrites s
      (added ++ (List.range j).flatMap fun i => pngLaterChunks s (pngDepth s) (i + 1))
      (seqAfter s j) (pngDepth s) (pngLoopPc s.nsub pc' (j + 1)) := by
  induction j with
  | zero => exact ⟨pc, by rw [List.range_zero, List.flatMap_nil, List.append_nil]; exact h⟩
  | succ j ih =>
    obtain ⟨pc', hloop⟩ := ih (by omega)
    have hk : j + 1 < s.nsub.toNat := by omega
    have hanim : animated s = true := (animated_iff s).2 (by omega)
    rw [seqAfter, if_pos hanim, pngLoopPc, if_pos hk] at hloop
    rw [seqAfter, if_pos hanim, List.range_succ, List.flatMap_append, List.flatMap_singleton,
      ← List.append_assoc]
    exact ⟨_, pngWrites_laterSubFrame s hq _ (j + 1) (by omega) hk pc' hloop⟩

/-- From `SIG` to `FINISH` the whole file is written. -/
theorem pngWrites_file (s : State) (hq : s.host.queue = []) (hphase : s.pc.phase = phaseSig)
    (hseq : s.png.seq = 0) :
    ∃ pc : Pc, PngWrites s (pngFile s) (seqAfter s (s.nsub.toNat - 1)) (pngDepth s)
      { pc with phase := phaseFinish } := by
  obtain ⟨pc, hfirst⟩ := pngWrites_firstSubFrame s hq _ (pngWrites_header s hq hphase hseq)
  obtain ⟨pc', hlater⟩ := pngWrites_loop s hq _ pc hfirst _ Nat.le.refl
  have hend : ¬ s.nsub.toNat - 1 + 1 < s.nsub.toNat := by omega
  rw [pngLoopPc, if_neg hend] at hlater
  rw [pngFile_eq]
  exact ⟨_, hlater.iend hq rfl⟩

/-- One past the last number of the file (R171). -/
theorem toNat_seqAfter_last (s : State) :
    (seqAfter s (s.nsub.toNat - 1)).toNat = if 2 ≤ s.nsub.toNat then 2 * s.nsub.toNat - 1 else 0 := by
  have hlt := s.nsub.isLt
  simp only [seqAfter, animated_iff]
  split_ifs with hanim
  · rw [BitVec.toNat_ofNat, Nat.mod_eq_of_lt (by omega)]
    omega
  · rfl

/-- Settles O35: the run of `pngWrites_file`, its last state read field by field. -/
theorem pngSequenceWritesTheFile : Obligations.PngSequenceWritesTheFile := by
  intro s hq hphase hseq
  obtain ⟨pc, n, crc, hrun⟩ := pngWrites_file s hq hphase hseq
  exact ⟨n, _, hrun, rfl, rfl, toNat_seqAfter_last s, rfl⟩

/-! ## The length of the file (R181) -/

theorem plteData_length (p : List Colour) : (plteData p).length = 3 * p.length := by
  have hrgb (c : Colour) : (rgb c).length = 3 := rfl
  rw [plteData, List.length_flatMap, funext hrgb]
  simp [Nat.mul_comm]

theorem fctlData_length (seq : BitVec 32) (f : SubFrame) : (fctlData seq f).length = 26 := rfl

theorem pngHeader_length (s : State) :
    (pngHeader s).length =
      8 + (12 + 13) + (12 + 3 * paletteLen s.ctl s.pl) + if emitsTrns s then 13 else 0 := by
  have hdata : (ihdrData (subFrame s 0) (pngDepth s)).length = 13 := rfl
  have hsig : pngSignature.length = 8 := rfl
  simp only [pngHeader, List.length_append, chunkBytes_length, plteData_length, hdata, hsig, paletteLen]
  split_ifs <;> simp [chunkBytes_length]

theorem pngAnimation_length (s : State) :
    (pngAnimation s).length = if animated s then 20 + 38 else 0 := by
  have hdata : (actlData s.nsub).length = 8 := rfl
  rw [pngAnimation]
  split_ifs
  · rw [List.length_append, chunkBytes_length, chunkBytes_length, hdata, fctlData_length]
  · rfl

theorem pngLaterChunks_length (s : State) (k : Nat) :
    (pngLaterChunks s (pngDepth s) k).length = 38 + 16 + (pngData s k).length := by
  rw [pngLaterChunks, List.length_append, chunkBytes_length, chunkBytes_length, fctlData_length,
    List.length_append, be32_length, pngData]
  omega

/-- Settles O36: the lengths of the parts. -/
theorem pngFileSize : Obligations.PngFileSize := by
  intro s
  simp only [pngFile_eq, List.length_append, List.length_flatMap, pngHeader_length,
    pngAnimation_length, chunkBytes_length, pngLaterChunks_length, List.length_nil]
  rfl

end Sys2Proof.Machine
end

section
/-! The GIF blocks (R200 to R207, R216, R220): one equation for each operation but `IMGDATA`, for the bytes
and the phase that follows. -/

namespace Sys2Proof.Machine

/-! ## The sizes and the choices (R202, R206, R209, R220) -/

/-- The size code is the only `e` at least 1 for which `2^(e+1)` is big enough and no smaller power from 4
on is (R202). -/
theorem sizeCode_unique (n e : Nat) (he : 1 ≤ e) (hfits : n ≤ 2 ^ (e + 1))
    (hleast : e = 1 ∨ 2 ^ e < n) : sizeCode n = e := by
  obtain ⟨hn, -, hsmall, hcode, -⟩ := tableSizesAgree n
  have htwo : 2 ≤ minCode n := le_growCode n n 2
  have hsucc := sizeCode_succ n
  rw [← hcode] at hn hsmall
  obtain hlt | heq | hgt := Nat.lt_trichotomy (minCode n) (e + 1)
  · have hpow : 2 ^ minCode n ≤ 2 ^ e := Nat.pow_le_pow_right Nat.two_pos (by omega)
    omega
  · omega
  · have hpow : 2 ^ (e + 2) ≤ 2 ^ minCode n := Nat.pow_le_pow_right Nat.two_pos (by omega)
    rw [Nat.pow_succ] at hpow
    have hpos : 2 ^ 1 ≤ 2 ^ e := Nat.pow_le_pow_right Nat.two_pos he
    rw [Nat.pow_succ] at hfits hpow
    omega

/-- The minimum code size of a palette that a global colour table holds (R87, R209). -/
theorem minCode_le_eight (n : Nat) (hn : n ≤ 256) : minCode n ≤ 8 := by
  obtain heq | hlt := growCode_eq_or_lt n n 2
  · rw [minCode, heq]
    decide
  · have hpow : 2 ^ minCode n < 2 ^ 9 := by
      rw [minCode]
      omega
    exact Nat.le_of_lt_succ ((Nat.pow_lt_pow_iff_right (by decide)).1 hpow)

theorem emitsGce_iff (s : State) :
    emitsGce s = true ↔ 2 ≤ s.nsub.toNat ∨ s.flg.tflag = true := by
  rw [emitsGce, Bool.or_eq_true, animated_iff]

/-- Where the GIF loop over the sub-frames stands before sub-frame `k` (R220). -/
def gifLoopPc (s : State) (pc : Pc) (k : Nat) : Pc :=
  if k < s.nsub.toNat then
    { pc with phase := if emitsGce s then phaseGce else phaseImgdesc, k := BitVec.ofNat 8 k }
  else { pc with phase := phaseTrailer }

theorem gifLoop_eq_gifLoopPc (k : Nat) (s : State) :
    gifLoop k s = { s with pc := gifLoopPc s s.pc k } := gifLoop_eq k s

/-- The black entries that fill the table up are zero bytes (R87). -/
theorem flatten_replicate_black (n : Nat) :
    (List.replicate n (rgb 0)).flatten = List.replicate (3 * n) 0x00 := by
  have hblack : rgb 0 = List.replicate 3 0x00 := rfl
  rw [hblack, List.flatten_replicate_replicate, Nat.mul_comm]

/-- The packed byte of the control extension: the disposal method above two bits, the lower of which is
`TFLAG` (R89). -/
theorem gcePacked_eq (disposal : BitVec 3) (tflag : Bool) :
    (0 : BitVec 3) ++ (disposal ++ ((0 : BitVec 1) ++ bit tflag)) =
      BitVec.ofNat 8 (4 * disposal.toNat + tflag.toNat) := by
  revert disposal tflag
  decide

/-! ## The operations -/

theorem exec_ghdr (s : State) : exec .ghdr s = .next (goto phaseLsd (emit gifHeader s)) := rfl

theorem exec_lsd (s : State) :
    exec .lsd s =
      .next (goto phaseGct (emit (lsdBytes (subFrame s 0) (paletteLen s.ctl s.pl)) s)) := rfl

/-- `GCT`, then `APPEXT` if its guard holds, else the first sub-frame. -/
theorem exec_gct (s : State) :
    exec .gct s = .next { s with
      out := s.out ++ gctBytes (palette s.ctl s.pl)
      pc := if animated s then { s.pc with phase := phaseAppext } else gifLoopPc s s.pc 0 } := by
  have hguard : animated (emit (gctBytes (palette s.ctl s.pl)) s) = animated s := rfl
  rw [exec, execGct, hguard, gifLoop_eq_gifLoopPc]
  split_ifs <;> rfl

theorem exec_appext (s : State) :
    exec .appext s = .next { s with out := s.out ++ appextBytes, pc := gifLoopPc s s.pc 0 } :=
  congrArg Host.Outcome.next (gifLoop_eq_gifLoopPc 0 _)

theorem exec_gce (s : State) :
    exec .gce s = .next (goto phaseImgdesc
      (emit (gceBytes s.par.gifDisposal s.flg.tflag (subFrame s s.pc.k.toNat)) s)) := rfl

theorem exec_imgdesc_of_fits (s : State) (hx : (subFrame s s.pc.k.toNat).x.toNat ≤ 65535)
    (hy : (subFrame s s.pc.k.toNat).y.toNat ≤ 65535) :
    exec .imgdesc s =
      .next (goto phaseImgdata (emit (imgdescBytes (subFrame s s.pc.k.toNat)) s)) :=
  if_neg (by omega)

theorem exec_imgdesc_of_beyond (s : State)
    (h : 65535 < (subFrame s s.pc.k.toNat).x.toNat ∨ 65535 < (subFrame s s.pc.k.toNat).y.toNat) :
    exec .imgdesc s = .refused .gifOffset := if_pos h

theorem exec_trailer (s : State) :
    exec .trailer s = .next (goto phaseFinish (emit [0x3B] s)) := rfl

/-- Settles O37: the equations of the four operations, with the one size code that fits. -/
theorem gifHeaderOperations : Obligations.GifHeaderOperations := by
  intro s e pal first he hfits hleast
  have hcode : sizeCode (paletteLen s.ctl s.pl) = e := sizeCode_unique _ e he hfits hleast
  have hsize : tableSize pal.length = 2 ^ (e + 1) := by
    rw [tableSize_eq_two_pow, ← sizeCode_succ]
    exact congrArg (fun c => 2 ^ (c + 1)) hcode
  have hfirst : gifLoopPc s s.pc 0 = first := by
    simp only [gifLoopPc, emitsGce_iff]
    rfl
  refine ⟨exec_ghdr s, ?_, ?_, ?_⟩
  · rw [exec_lsd, lsdBytes, hcode]
    simp only [goto, emit, List.append_assoc]
    rfl
  · rw [exec_gct, hfirst]
    simp only [animated_iff]
    have hbytes : gctBytes (palette s.ctl s.pl) =
        pal.flatMap rgb ++ List.replicate (3 * (2 ^ (e + 1) - pal.length)) 0x00 := by
      rw [← hsize, ← flatten_replicate_black]
      rfl
    rw [hbytes, List.append_assoc]
    rfl
  · rw [exec_appext, hfirst]
    rfl

/-- Settles O38: the equations of the three operations, offsets of at most 65535 being their low 16 bits. -/
theorem gifBlockOperations : Obligations.GifBlockOperations := by
  intro s f
  refine ⟨?_, exec_imgdesc_of_fits s, exec_imgdesc_of_beyond s, exec_trailer s⟩
  rw [exec_gce, gceBytes, gcePacked_eq]
  simp only [goto, emit, List.append_assoc]
  rfl

end Sys2Proof.Machine
end

section
/-! The LZW compressor (R210 to R213, R263): what its steps do, that it always completes for a minimum code
size of at most 11, and the bounds that its registers and codes keep. -/

namespace Sys2Proof.Machine

/-! ## Computations that refuse nothing -/

/-- A computation that does not end in a refused case. -/
def Flow.NoRefusal {α : Type} (x : Flow α) : Prop := ∀ r, x ≠ .refuse r

theorem Flow.noRefusal_ok {α : Type} (a : α) : (Flow.ok a).NoRefusal := fun _ => nofun

theorem Flow.NoRefusal.andThen {α β : Type} {x : Flow α} {f : α → Flow β} (hx : x.NoRefusal)
    (hf : ∀ a, (f a).NoRefusal) : (x.andThen f).NoRefusal := by
  cases x with
  | ok a => exact hf a
  | refuse r => exact absurd rfl (hx r)
  | fault c => exact fun _ => nofun

/-- With no fault and no refused case there is a value. -/
theorem Flow.Meets.exists_ok {α : Type} {P : α → Prop} {x : Flow α} (hx : x.Meets P)
    (hr : x.NoRefusal) : ∃ a, x = .ok a := by
  cases x with
  | ok a => exact ⟨a, rfl⟩
  | refuse r => exact absurd rfl (hr r)
  | fault c => exact hx.elim

theorem lzwOut_noRefusal (r : LzwRegs) (c : BitVec 12) : (lzwOut r c).NoRefusal := by
  unfold lzwOut
  split_ifs <;> exact fun _ => nofun

theorem lzwAssign_noRefusal (r : LzwRegs) (k : BitVec 8) : (lzwAssign r k).NoRefusal := by
  unfold lzwAssign
  split_ifs <;> exact fun _ => nofun

theorem lzwStep_noRefusal (m : Nat) (r : LzwRegs) (k : BitVec 8) : (lzwStep m r k).NoRefusal := by
  unfold lzwStep
  split
  · exact Flow.noRefusal_ok _
  · refine (lzwOut_noRefusal _ _).andThen fun _ => ?_
    split_ifs
    · exact (lzwAssign_noRefusal r k).andThen fun _ => Flow.noRefusal_ok _
    · exact (lzwOut_noRefusal _ _).andThen fun _ => Flow.noRefusal_ok _

theorem lzwRun_noRefusal (m : Nat) (ks : List (BitVec 8)) (r : LzwRegs) :
    (lzwRun m r ks).NoRefusal := by
  induction ks generalizing r with
  | nil =>
    exact (lzwOut_noRefusal _ _).andThen fun _ =>
      (lzwOut_noRefusal _ _).andThen fun _ => Flow.noRefusal_ok _
  | cons k ks ih =>
    exact (lzwStep_noRefusal m r k).andThen fun rc => (ih rc.1).andThen fun _ => Flow.noRefusal_ok _

/-- `LZW` completes for every list of pixels, as far as codes of 12 bits go (R263). -/
theorem lzw_completes (m : Nat) (hm : m ≤ 11) (pixels : List (BitVec 8)) :
    ∃ regs codes, lzw m pixels = .ok (regs, codes) := by
  have hno : (lzw m pixels).NoRefusal := by
    rw [lzw, if_neg (by omega)]
    exact (lzwOut_noRefusal _ _).andThen fun _ =>
      (lzwRun_noRefusal m _ _).andThen fun _ => Flow.noRefusal_ok _
  obtain ⟨rc, hrc⟩ := (lzw_meets m hm pixels).exists_ok hno
  exact ⟨rc.1, rc.2, hrc⟩

/-! ## What a run that completes has done -/

/-- The width once the code `NEXT` is out: one bit more if that code needs it (R212, R213). -/
def LzwRegs.nextWidth (r : LzwRegs) : BitVec 4 :=
  if r.next.toNat = 2 ^ r.width.toNat ∧ r.width.toNat < 12 then r.width + 1 else r.width

theorem LzwRegs.toNat_nextWidth (r : LzwRegs) :
    r.nextWidth.toNat =
      if r.next.toNat = 2 ^ r.width.toNat ∧ r.width.toNat < 12 then r.width.toNat + 1
      else r.width.toNat := by
  unfold LzwRegs.nextWidth
  split_ifs with hgrow
  · have hlt := hgrow.2
    bv_omega
  · rfl

/-- `DICT` after an assignment finds the new pair, and the old pairs as before. -/
theorem dictGet_cons (p c : BitVec 12) (k : BitVec 8) (e : (BitVec 12 × BitVec 8) × BitVec 12)
    (dict : List ((BitVec 12 × BitVec 8) × BitVec 12)) (h : dictGet p k (e :: dict) = some c) :
    (e.1 = (p, k) ∧ c = e.2) ∨ dictGet p k dict = some c := by
  rw [dictGet] at h
  split_ifs at h with hkey
  · exact .inl ⟨hkey, (Option.some.inj h).symm⟩
  · exact .inr h

/-- What an assignment leaves (R212), `NEXT` being within the codes of the width. -/
theorem lzwAssign_eq_ok (r q : LzwRegs) (k : BitVec 8) (hnext : r.next.toNat ≤ 2 ^ r.width.toNat)
    (h : lzwAssign r k = .ok q) :
    q = { dict := ((r.pfx, k), r.next.setWidth 12) :: r.dict
          next := r.next + 1
          width := r.nextWidth
          pfx := r.pfx } := by
  have hgrow : 2 ^ r.width.toNat < r.next.toNat + 1 ↔ r.next.toNat = 2 ^ r.width.toNat := by omega
  unfold lzwAssign at h
  split at h
  · cases h
  · rw [← Flow.ok.inj h, LzwRegs.nextWidth]
    simp only [hgrow]

/-- The end writes the last string's code and `STOP` (R213). -/
theorem lzwFinish_eq_ok (m : Nat) (r rd : LzwRegs) (cs : List Code)
    (h : lzwFinish m r = .ok (rd, cs)) :
    rd = { r with width := r.nextWidth } ∧
      cs = [{ code := r.pfx, width := r.width }, { code := lzwStop m, width := r.nextWidth }] := by
  obtain ⟨c1, h1, h⟩ := (Flow.andThen_eq_ok _ _ _).1 h
  obtain ⟨-, rfl⟩ := (lzwOut_eq_ok _ _ _).1 h1
  obtain ⟨c2, h2, h⟩ := (Flow.andThen_eq_ok _ _ _).1 h
  obtain ⟨-, rfl⟩ := (lzwOut_eq_ok _ _ _).1 h2
  cases h
  unfold LzwRegs.nextWidth
  split_ifs <;> exact ⟨rfl, rfl⟩

/-- A run over one pixel more is a step, then the run over the rest. -/
theorem lzwRun_cons_eq_ok (m : Nat) (r rd : LzwRegs) (k : BitVec 8) (ks : List (BitVec 8))
    (cs : List Code) (h : lzwRun m r (k :: ks) = .ok (rd, cs)) :
    ∃ r' now later, lzwStep m r k = .ok (r', now) ∧ lzwRun m r' ks = .ok (rd, later) ∧
      cs = now ++ later := by
  obtain ⟨⟨r', now⟩, hstep, h⟩ := (Flow.andThen_eq_ok _ _ _).1 h
  obtain ⟨⟨rd', later⟩, hrun, h⟩ := (Flow.andThen_eq_ok _ _ _).1 h
  cases h
  exact ⟨r', now, later, hstep, hrun, rfl⟩

/-- `LZW` writes `CLEAR`, then what the run over the further pixels writes (R211). -/
theorem lzw_cons_eq_ok (m : Nat) (p : BitVec 8) (ps : List (BitVec 8)) (regs : LzwRegs)
    (codes : List Code) (h : lzw m (p :: ps) = .ok (regs, codes)) :
    ∃ later, lzwRun m (lzwReset m (lzwRoot p)) ps = .ok (regs, later) ∧
      codes = { code := lzwClear m, width := BitVec.ofNat 4 (m + 1) } :: later := by
  unfold lzw at h
  split_ifs at h
  obtain ⟨c0, h0, h⟩ := (Flow.andThen_eq_ok _ _ _).1 h
  obtain ⟨-, rfl⟩ := (lzwOut_eq_ok _ _ _).1 h0
  obtain ⟨⟨rd, later⟩, hrun, h⟩ := (Flow.andThen_eq_ok _ _ _).1 h
  cases h
  exact ⟨later, hrun, rfl⟩

/-! ## The bounds on the registers and the codes -/

/-- What R209 to R213 keep of the registers: `NEXT` is at most one past the codes of the width, and the
string and every pair of `DICT` have codes below `NEXT`. -/
structure LzwRegs.Fit (m : Nat) (r : LzwRegs) : Prop where
  minWidth : m + 1 ≤ r.width.toNat
  maxWidth : r.width.toNat ≤ 12
  minNext : 2 ^ m + 2 ≤ r.next.toNat
  maxNext : r.next.toNat ≤ 2 ^ r.width.toNat
  pfx_lt : r.pfx.toNat < r.next.toNat
  dict_lt : ∀ p k c, dictGet p k r.dict = some c → c.toNat < r.next.toNat

/-- A code below `2^WIDTH`, the width being one that `m` allows (R213). -/
def CodeFits (m : Nat) (c : Code) : Prop :=
  c.code.toNat < 2 ^ c.width.toNat ∧ m + 1 ≤ c.width.toNat ∧ c.width.toNat ≤ 12

theorem two_pow_le_256 {m : Nat} (hm : m ≤ 8) : 2 ^ m ≤ 256 :=
  (Nat.pow_le_pow_right Nat.two_pos hm : 2 ^ m ≤ 2 ^ 8)

theorem four_le_two_pow {m : Nat} (hm : 2 ≤ m) : 4 ≤ 2 ^ m :=
  (Nat.pow_le_pow_right Nat.two_pos hm : 2 ^ 2 ≤ 2 ^ m)

theorem toNat_lzwClear {m : Nat} (hm : m ≤ 8) : (lzwClear m).toNat = 2 ^ m := by
  have hpow := two_pow_le_256 hm
  rw [lzwClear, BitVec.toNat_ofNat, Nat.mod_eq_of_lt (by omega)]

theorem toNat_lzwStop {m : Nat} (hm : m ≤ 8) : (lzwStop m).toNat = 2 ^ m + 1 := by
  have hpow := two_pow_le_256 hm
  rw [lzwStop, BitVec.toNat_ofNat, Nat.mod_eq_of_lt (by omega)]

theorem toNat_lzwRoot (p : BitVec 8) : (lzwRoot p).toNat = p.toNat :=
  BitVec.toNat_setWidth_of_le (by decide)

theorem toNat_lzwReset_width {m : Nat} (hm : m ≤ 8) (pfx : BitVec 12) :
    (lzwReset m pfx).width.toNat = m + 1 := by
  rw [lzwReset, BitVec.toNat_ofNat, Nat.mod_eq_of_lt (by omega)]

theorem toNat_lzwReset_next {m : Nat} (hm : m ≤ 8) (pfx : BitVec 12) :
    (lzwReset m pfx).next.toNat = 2 ^ m + 2 := by
  have hpow := two_pow_le_256 hm
  rw [lzwReset, BitVec.toNat_ofNat, Nat.mod_eq_of_lt (by omega)]

section
variable {m : Nat} {r : LzwRegs}

theorem LzwRegs.Fit.next_le (h : r.Fit m) : r.next.toNat ≤ 4096 :=
  h.maxNext.trans (Nat.pow_le_pow_right Nat.two_pos h.maxWidth : 2 ^ r.width.toNat ≤ 2 ^ 12)

/-- A full table has the widest codes. -/
theorem LzwRegs.Fit.width_of_full (h : r.Fit m) (hfull : 4096 ≤ r.next.toNat) :
    r.width.toNat = 12 := by
  have hpow : 2 ^ 12 ≤ 2 ^ r.width.toNat := hfull.trans h.maxNext
  exact h.maxWidth.antisymm ((Nat.pow_le_pow_iff_right (by decide)).1 hpow)

theorem LzwRegs.Fit.two_pow_le (h : r.Fit m) : 2 ^ m * 2 ≤ 2 ^ r.width.toNat := by
  rw [← Nat.pow_succ]
  exact Nat.pow_le_pow_right Nat.two_pos h.minWidth

/-- The width stays in its range once the code `NEXT` is out. -/
theorem LzwRegs.Fit.nextWidth_bounds (h : r.Fit m) :
    m + 1 ≤ r.nextWidth.toNat ∧ r.nextWidth.toNat ≤ 12 := by
  have hmin := h.minWidth
  have hmax := h.maxWidth
  rw [LzwRegs.toNat_nextWidth]
  split_ifs <;> omega

/-- A table with room still fits the next width when it holds one code more. -/
theorem LzwRegs.Fit.succ_next_le (h : r.Fit m) (hroom : r.next.toNat < 4096) :
    r.next.toNat + 1 ≤ 2 ^ r.nextWidth.toNat := by
  have hmax := h.maxWidth
  have hnext := h.maxNext
  rw [LzwRegs.toNat_nextWidth]
  split_ifs with hgrow
  · have hpos := Nat.two_pow_pos r.width.toNat
    rw [Nat.pow_succ]
    omega
  · refine Nat.succ_le_of_lt (lt_of_le_of_ne hnext fun heq => ?_)
    have hwidth : r.width.toNat = 12 := by omega
    rw [hwidth] at heq
    omega

theorem LzwRegs.Fit.reset (hm : 2 ≤ m) (hm8 : m ≤ 8) (k : BitVec 8) (hk : k.toNat < 2 ^ m) :
    (lzwReset m (lzwRoot k)).Fit m where
  minWidth := (toNat_lzwReset_width hm8 _).ge
  maxWidth := by rw [toNat_lzwReset_width hm8]; omega
  minNext := (toNat_lzwReset_next hm8 _).ge
  maxNext := by
    have hpow := four_le_two_pow hm
    rw [toNat_lzwReset_next hm8, toNat_lzwReset_width hm8, Nat.pow_succ]
    omega
  pfx_lt := by
    rw [toNat_lzwReset_next hm8]
    exact (toNat_lzwRoot k).trans_lt (Nat.lt_add_right 2 hk)
  dict_lt := nofun

/-- The registers after an assignment, the string starting anew at pixel `k`. -/
def LzwRegs.assigned (r : LzwRegs) (k : BitVec 8) : LzwRegs :=
  { dict := ((r.pfx, k), r.next.setWidth 12) :: r.dict
    next := r.next + 1
    width := r.nextWidth
    pfx := lzwRoot k }

theorem LzwRegs.toNat_assigned_next (k : BitVec 8) (hroom : r.next.toNat < 4096) :
    (r.assigned k).next.toNat = r.next.toNat + 1 := by
  unfold LzwRegs.assigned
  bv_omega

theorem toNat_setWidth_next (next : BitVec 13) (hroom : next.toNat < 4096) :
    (next.setWidth 12).toNat = next.toNat := by
  rw [BitVec.toNat_setWidth, Nat.mod_eq_of_lt hroom]

theorem LzwRegs.Fit.assigned (h : r.Fit m) (k : BitVec 8) (hk : k.toNat < 2 ^ m)
    (hroom : r.next.toNat < 4096) : (r.assigned k).Fit m := by
  obtain ⟨hmin, hmax⟩ := h.nextWidth_bounds
  have hnext := LzwRegs.toNat_assigned_next k hroom
  have hminNext := h.minNext
  refine ⟨hmin, hmax, by omega, ?_, ?_, fun p k' c hc => ?_⟩
  · rw [hnext]
    exact h.succ_next_le hroom
  · have hroot : (r.assigned k).pfx.toNat = k.toNat := toNat_lzwRoot k
    omega
  · rw [hnext]
    obtain ⟨-, rfl⟩ | hold := dictGet_cons _ _ _ _ _ hc
    · exact (toNat_setWidth_next r.next hroom).trans_lt (Nat.lt_succ_self _)
    · exact Nat.lt_succ_of_lt (h.dict_lt _ _ _ hold)

theorem LzwRegs.Fit.pfx_fits (h : r.Fit m) : CodeFits m { code := r.pfx, width := r.width } :=
  ⟨h.pfx_lt.trans_le h.maxNext, h.minWidth, h.maxWidth⟩

theorem fits_lzwClear (hm8 : m ≤ 8) (w : BitVec 4) (hmin : m + 1 ≤ w.toNat) (hmax : w.toNat ≤ 12) :
    CodeFits m { code := lzwClear m, width := w } := by
  refine ⟨?_, hmin, hmax⟩
  rw [toNat_lzwClear hm8]
  exact Nat.pow_lt_pow_right Nat.one_lt_two hmin

theorem fits_lzwStop (hm : 2 ≤ m) (hm8 : m ≤ 8) (w : BitVec 4) (hmin : m + 1 ≤ w.toNat)
    (hmax : w.toNat ≤ 12) : CodeFits m { code := lzwStop m, width := w } := by
  have hfour := four_le_two_pow hm
  have hpow : 2 ^ (m + 1) ≤ 2 ^ w.toNat := Nat.pow_le_pow_right Nat.two_pos hmin
  rw [Nat.pow_succ] at hpow
  refine ⟨?_, hmin, hmax⟩
  rw [toNat_lzwStop hm8]
  change 2 ^ m + 1 < 2 ^ w.toNat
  omega

/-- All that the step for one further pixel can do to registers in their bounds (R212): the pair is in
`DICT`; or it is assigned; or the table is full and starts anew. -/
theorem LzwRegs.Fit.step_cases (h : r.Fit m) (k : BitVec 8) (r' : LzwRegs) (cs : List Code)
    (hstep : lzwStep m r k = .ok (r', cs)) :
    (∃ c, dictGet r.pfx k r.dict = some c ∧ r' = { r with pfx := c } ∧ cs = []) ∨
      (r.next.toNat < 4096 ∧ r' = r.assigned k ∧ cs = [{ code := r.pfx, width := r.width }]) ∨
      (4096 ≤ r.next.toNat ∧ r' = lzwReset m (lzwRoot k) ∧
        cs = [{ code := r.pfx, width := r.width }, { code := lzwClear m, width := r.width }]) := by
  obtain hfound | ⟨-, -, hroom, hcs, q, hq, rfl⟩ | ⟨-, -, hfull, hcs, hr'⟩ :=
    lzwStep_cases m r k r' cs hstep
  · exact .inl hfound
  · obtain rfl := lzwAssign_eq_ok r q k h.maxNext hq
    exact .inr (.inl ⟨hroom, rfl, hcs⟩)
  · exact .inr (.inr ⟨hfull, hr', hcs⟩)

/-- The step keeps the bounds, and its codes fit. -/
theorem LzwRegs.Fit.step (hm : 2 ≤ m) (hm8 : m ≤ 8) (h : r.Fit m) (k : BitVec 8) (hk : k.toNat < 2 ^ m)
    (r' : LzwRegs) (cs : List Code) (hstep : lzwStep m r k = .ok (r', cs)) :
    r'.Fit m ∧ ∀ c ∈ cs, CodeFits m c := by
  obtain ⟨c, hc, rfl, rfl⟩ | ⟨hroom, rfl, rfl⟩ | ⟨-, rfl, rfl⟩ := h.step_cases k r' cs hstep
  · exact ⟨{ h with pfx_lt := h.dict_lt _ _ _ hc }, nofun⟩
  · exact ⟨h.assigned k hk hroom, List.forall_mem_singleton.2 h.pfx_fits⟩
  · have hclear := fits_lzwClear hm8 r.width h.minWidth h.maxWidth
    exact ⟨.reset hm hm8 k hk,
      List.forall_mem_cons.2 ⟨h.pfx_fits, List.forall_mem_singleton.2 hclear⟩⟩

/-- A run leaves `NEXT` in its range, its codes fit, and the last is `STOP`. -/
theorem LzwRegs.Fit.run (hm : 2 ≤ m) (hm8 : m ≤ 8) (ks : List (BitVec 8))
    (hks : ∀ k ∈ ks, k.toNat < 2 ^ m) (h : r.Fit m) (rd : LzwRegs) (cs : List Code)
    (hrun : lzwRun m r ks = .ok (rd, cs)) :
    2 ^ m + 2 ≤ rd.next.toNat ∧ rd.next.toNat ≤ 4096 ∧ (∀ c ∈ cs, CodeFits m c) ∧
      ∃ mid last, cs = mid ++ [last] ∧ last.code = lzwStop m := by
  induction ks generalizing r cs with
  | nil =>
    obtain ⟨rfl, rfl⟩ := lzwFinish_eq_ok m r rd cs hrun
    obtain ⟨hmin, hmax⟩ := h.nextWidth_bounds
    have hstop := fits_lzwStop hm hm8 r.nextWidth hmin hmax
    exact ⟨h.minNext, h.next_le,
      List.forall_mem_cons.2 ⟨h.pfx_fits, List.forall_mem_singleton.2 hstop⟩, [_], _, rfl, rfl⟩
  | cons k ks ih =>
    obtain ⟨hk, hks⟩ := List.forall_mem_cons.1 hks
    obtain ⟨r', now, later, hstep, hrest, rfl⟩ := lzwRun_cons_eq_ok m r rd k ks cs hrun
    obtain ⟨hr', hnow⟩ := h.step hm hm8 k hk r' now hstep
    obtain ⟨hmin, hmax, hlater, mid, last, rfl, hlast⟩ := ih hks hr' later hrest
    exact ⟨hmin, hmax, List.forall_mem_append.2 ⟨hnow, hlater⟩, now ++ mid, last,
      (List.append_assoc _ _ _).symm, hlast⟩

end

theorem exec_lzw_of_ok (pixels : List (BitVec 8)) (m : BitVec 4) (s : State) (regs : LzwRegs)
    (codes : List Code) (h : lzw m.toNat pixels = .ok (regs, codes)) :
    exec (.lzw pixels m) s = .next
      { s with gif := { s.gif with mincode := m, lzw := regs }, fout := .codes codes } := by
  rw [exec, execLzw, h]
  rfl

/-- Settles O40: `CLEAR` fits, and the run from the reset registers keeps the bounds. -/
theorem lzwEmitsCodesThatFit : Obligations.LzwEmitsCodesThatFit := by
  intro pixels m s hm hm8 hne hpixels
  obtain ⟨p, ps, rfl⟩ := List.exists_cons_of_ne_nil hne
  obtain ⟨hp, hps⟩ := List.forall_mem_cons.1 hpixels
  obtain ⟨regs, codes, hlzw⟩ := lzw_completes m.toNat (by omega) (p :: ps)
  obtain ⟨later, hrun, rfl⟩ := lzw_cons_eq_ok _ _ _ _ _ hlzw
  obtain ⟨hmin, hmax, hlater, mid, last, rfl, hlast⟩ :=
    LzwRegs.Fit.run hm hm8 ps hps (.reset hm hm8 p hp) regs later hrun
  have hwidth : BitVec.ofNat 4 (m.toNat + 1) = m + 1 := by bv_omega
  have hclear := fits_lzwClear hm8 (m + 1) (by bv_omega) (by bv_omega)
  rw [hwidth] at hlzw
  refine ⟨regs, mid, last, exec_lzw_of_ok _ m s _ _ hlzw, ?_,
    List.forall_mem_cons.2 ⟨hclear, hlater⟩, hmin, hmax⟩
  rw [hlast, toNat_lzwStop hm8]

end Sys2Proof.Machine
end

section
/-! The LZW round trip (R213, R222 (c)): the decoder's table is the compressor's without the entry assigned
last, whose last pixel the decoder takes from the next code. -/

namespace Sys2Proof.Machine

/-! ## The strings of the codes -/

/-- The string of code `c`, `table` holding those of the assigned codes, `2^m + 2` first (R210, R212). -/
def codeString (m : Nat) (table : List (List (BitVec 8))) (c : Nat) : Option (List (BitVec 8)) :=
  if c < 2 ^ m then some [BitVec.ofNat 8 c]
  else if 2 ^ m + 2 ≤ c then table[c - (2 ^ m + 2)]?
  else none

theorem codeString_root {m : Nat} (table : List (List (BitVec 8))) (k : BitVec 8)
    (hk : k.toNat < 2 ^ m) : codeString m table (lzwRoot k).toNat = some [k] := by
  rw [toNat_lzwRoot, codeString, if_pos hk, BitVec.ofNat_toNat, BitVec.setWidth_eq]

/-- The code assigned last has the last string. -/
theorem codeString_last (m : Nat) (table : List (List (BitVec 8))) (str : List (BitVec 8)) :
    codeString m (table ++ [str]) (2 ^ m + 2 + table.length) = some str := by
  rw [codeString, if_neg (by omega), if_pos (by omega), Nat.add_sub_cancel_left]
  exact List.getElem?_concat_length

/-- An assignment leaves the strings there are. -/
theorem codeString_append {m : Nat} {table : List (List (BitVec 8))} {c : Nat} {str : List (BitVec 8)}
    (more : List (List (BitVec 8))) (h : codeString m table c = some str) :
    codeString m (table ++ more) c = some str := by
  unfold codeString at h ⊢
  split_ifs at h ⊢
  · exact h
  · obtain ⟨hlt, -⟩ := List.getElem?_eq_some_iff.1 h
    rw [List.getElem?_append_left hlt, h]

/-- A code with a string is neither `CLEAR` nor `STOP`. -/
theorem ne_of_codeString {m : Nat} {table : List (List (BitVec 8))} {c : Nat} {str : List (BitVec 8)}
    (h : codeString m table c = some str) : c ≠ 2 ^ m ∧ c ≠ 2 ^ m + 1 := by
  unfold codeString at h
  split_ifs at h <;> omega

/-- With no code assigned only the roots have strings. -/
theorem codeString_nil {m : Nat} {c : Nat} {str : List (BitVec 8)}
    (h : codeString m [] c = some str) : c < 2 ^ m ∧ str = [BitVec.ofNat 8 c] := by
  unfold codeString at h
  split_ifs at h with hroot
  · exact ⟨hroot, (Option.some.inj h).symm⟩
  · cases h

/-- The decoder finds the string of a code although it lacks the last entry: that entry is the string
before with the first pixel of this one, so as the next code it stands for the string before and its own
first pixel. -/
theorem lzwString_of_codeString {m : Nat} {table : List (List (BitVec 8))} {prev str : List (BitVec 8)}
    {c : Nat} (hprev : prev ≠ []) (h : codeString m (table ++ [prev ++ str.take 1]) c = some str) :
    lzwString m table prev c = some str := by
  obtain ⟨first, rest, rfl⟩ := List.exists_cons_of_ne_nil hprev
  unfold codeString at h
  unfold lzwString
  split_ifs at h ⊢ with hroot hlast
  · exact h
  · rw [hlast, Nat.add_sub_cancel_left, List.getElem?_concat_length] at h
    have htake : str.take 1 = [first] := by rw [← Option.some.inj h]; rfl
    rw [htake] at h
    exact h
  · rw [List.getElem?_append_left] at h
    · exact h
    · obtain ⟨hlt, -⟩ := List.getElem?_eq_some_iff.1 h
      rw [List.length_append, List.length_singleton] at hlt
      omega

/-! ## The compressor's registers and the decoder's -/

/-- The compressor's registers stand for strings: `table` holds those of the assigned codes, PREFIX has the
string `str`, and a pair in `DICT` extends the string of its code by its pixel (R210, R212). -/
structure LzwRegs.Spells (m : Nat) (r : LzwRegs) (table : List (List (BitVec 8)))
    (str : List (BitVec 8)) : Prop where
  fit : r.Fit m
  next_eq : r.next.toNat = 2 ^ m + 2 + table.length
  nonempty : str ≠ []
  pfx_str : codeString m table r.pfx.toNat = some str
  dict_str : ∀ p k c, dictGet p k r.dict = some c →
    ∃ u, codeString m table p.toNat = some u ∧ codeString m table c.toNat = some (u ++ [k])

/-- What the decoder knows when the compressor holds `table` and the string `str`: nothing after a `CLEAR`,
and afterwards all entries but the last, which is the string before with the first pixel of `str`. -/
inductive DecoderBehind (str : List (BitVec 8)) :
    List (List (BitVec 8)) → List (List (BitVec 8)) → Option (List (BitVec 8)) → Prop
  | cleared : DecoderBehind str [] [] none
  | running (known : List (List (BitVec 8))) (prev : List (BitVec 8)) (hprev : prev ≠ []) :
      DecoderBehind str (known ++ [prev ++ str.take 1]) known (some prev)

/-- More pixels at the end of the string tell the decoder nothing. -/
theorem DecoderBehind.extend {str : List (BitVec 8)} {table known : List (List (BitVec 8))}
    {prev : Option (List (BitVec 8))} (h : DecoderBehind str table known prev) (hne : str ≠ [])
    (k : BitVec 8) : DecoderBehind (str ++ [k]) table known prev := by
  have htake : (str ++ [k]).take 1 = str.take 1 :=
    List.take_append_of_le_length (List.length_pos_iff.2 hne)
  cases h with
  | cleared => exact .cleared
  | running known prev hprev =>
    rw [← htake]
    exact .running known prev hprev

section
variable {m : Nat} {r : LzwRegs} {table known : List (List (BitVec 8))} {str : List (BitVec 8)}
  {prev : Option (List (BitVec 8))}

theorem LzwRegs.Spells.reset (hm : 2 ≤ m) (hm8 : m ≤ 8) (k : BitVec 8) (hk : k.toNat < 2 ^ m) :
    (lzwReset m (lzwRoot k)).Spells m [] [k] where
  fit := .reset hm hm8 k hk
  next_eq := toNat_lzwReset_next hm8 _
  nonempty := List.cons_ne_nil _ _
  pfx_str := codeString_root [] k hk
  dict_str := nofun

/-- A pair in `DICT` makes the string longer (R212). -/
theorem LzwRegs.Spells.found (h : r.Spells m table str) (k : BitVec 8) (c : BitVec 12)
    (hc : dictGet r.pfx k r.dict = some c) : { r with pfx := c }.Spells m table (str ++ [k]) := by
  obtain ⟨u, hu, hcu⟩ := h.dict_str _ _ _ hc
  obtain rfl : str = u := Option.some.inj (h.pfx_str.symm.trans hu)
  exact { h with
    fit := { h.fit with pfx_lt := h.fit.dict_lt _ _ _ hc }
    nonempty := List.append_ne_nil_of_right_ne_nil _ (List.cons_ne_nil _ _)
    pfx_str := hcu }

/-- The assigned code stands for the string and the pixel that did not go on with it (R212). -/
theorem LzwRegs.Spells.assigned (h : r.Spells m table str) (k : BitVec 8) (hk : k.toNat < 2 ^ m)
    (hroom : r.next.toNat < 4096) : (r.assigned k).Spells m (table ++ [str ++ [k]]) [k] where
  fit := h.fit.assigned k hk hroom
  next_eq := by
    rw [LzwRegs.toNat_assigned_next k hroom, h.next_eq, List.length_append, List.length_singleton,
      Nat.add_assoc]
  nonempty := List.cons_ne_nil _ _
  pfx_str := codeString_root _ k hk
  dict_str p k' c hc := by
    obtain ⟨hkey, rfl⟩ | hold := dictGet_cons _ _ _ _ _ hc
    · obtain ⟨rfl, rfl⟩ := Prod.mk.inj hkey
      refine ⟨str, codeString_append _ h.pfx_str, ?_⟩
      rw [toNat_setWidth_next r.next hroom, h.next_eq]
      exact codeString_last m table _
    · obtain ⟨u, hu, hcu⟩ := h.dict_str _ _ _ hold
      exact ⟨u, codeString_append _ hu, codeString_append _ hcu⟩

/-! ## The decoder on the compressor's codes -/

/-- Right after a `CLEAR` the width has room for another code. -/
theorem LzwRegs.Spells.nextWidth_of_cleared (hm : 2 ≤ m) (h : r.Spells m [] str) :
    r.nextWidth.toNat = r.width.toNat := by
  have hfour := four_le_two_pow hm
  have hpow := h.fit.two_pow_le
  have hnext : r.next.toNat = 2 ^ m + 2 := h.next_eq
  rw [LzwRegs.toNat_nextWidth, if_neg (by omega)]

/-- The code of the string: the decoder writes the string, catches up with the table and takes the next
width (R213). -/
theorem lzwDecode_pfx (hm : 2 ≤ m) (h : r.Spells m table str) (hd : DecoderBehind str table known prev)
    (cs : List Code) :
    lzwDecode m r.width.toNat known prev ({ code := r.pfx, width := r.width } :: cs) =
      (lzwDecode m r.nextWidth.toNat table (some str) cs).map (str ++ ·) := by
  obtain ⟨hclear, hstop⟩ := ne_of_codeString h.pfx_str
  cases hd with
  | cleared =>
    obtain ⟨hroot, rfl⟩ := codeString_nil h.pfx_str
    rw [lzwDecode, if_neg (by simp), if_neg hclear, if_neg hstop, if_pos hroot, h.nextWidth_of_cleared hm]
  | running known prev hprev =>
    have hnext : r.next.toNat = 2 ^ m + 2 + (known.length + 1) := by
      rw [h.next_eq, List.length_append, List.length_singleton]
    have hle := h.fit.next_le
    have hroom : 2 ^ m + 2 + known.length < 4096 := by omega
    rw [lzwDecode, if_neg (by simp), if_neg hclear, if_neg hstop]
    simp only [lzwString_of_codeString hprev h.pfx_str]
    rw [if_pos hroom, List.length_append, List.length_singleton, ← hnext,
      LzwRegs.toNat_nextWidth]

theorem lzwDecode_clear (hm8 : m ≤ 8) (w : BitVec 4) (cs : List Code) :
    lzwDecode m w.toNat known prev ({ code := lzwClear m, width := w } :: cs) =
      lzwDecode m (m + 1) [] none cs := by
  cases prev <;> rw [lzwDecode, if_neg (by simp), if_pos (toNat_lzwClear hm8)]

theorem lzwDecode_stop (hm8 : m ≤ 8) (w : BitVec 4) :
    lzwDecode m w.toNat known prev [{ code := lzwStop m, width := w }] = some [] := by
  have hstop := toNat_lzwStop hm8
  cases prev <;> rw [lzwDecode, if_neg (by simp), if_neg (by simp [hstop]), if_pos hstop, if_pos rfl]

/-- The decoder gives back the compressor's string and the pixels still to come. -/
theorem lzwDecode_run (hm : 2 ≤ m) (hm8 : m ≤ 8) (ks : List (BitVec 8))
    (hks : ∀ k ∈ ks, k.toNat < 2 ^ m) (h : r.Spells m table str)
    (hd : DecoderBehind str table known prev) (rd : LzwRegs) (cs : List Code)
    (hrun : lzwRun m r ks = .ok (rd, cs)) :
    lzwDecode m r.width.toNat known prev cs = some (str ++ ks) := by
  induction ks generalizing r table known str prev cs with
  | nil =>
    obtain ⟨-, rfl⟩ := lzwFinish_eq_ok m r rd cs hrun
    rw [lzwDecode_pfx hm h hd, lzwDecode_stop hm8]
    rfl
  | cons k ks ih =>
    obtain ⟨hk, hks⟩ := List.forall_mem_cons.1 hks
    obtain ⟨r', now, later, hstep, hrest, rfl⟩ := lzwRun_cons_eq_ok m r rd k ks cs hrun
    obtain ⟨c, hc, rfl, rfl⟩ | ⟨hroom, rfl, rfl⟩ | ⟨hfull, rfl, rfl⟩ := h.fit.step_cases k r' now hstep
    · have hdec := ih hks (h.found k c hc) (hd.extend h.nonempty k) later hrest
      rw [List.append_assoc] at hdec
      exact hdec
    · have hdec := ih hks (h.assigned k hk hroom) (.running table str h.nonempty) later hrest
      rw [List.singleton_append, lzwDecode_pfx hm h hd]
      exact congrArg (Option.map (str ++ ·)) hdec
    · have hdec := ih hks (.reset hm hm8 k hk) .cleared later hrest
      have hwidth : r.nextWidth.toNat = r.width.toNat := by
        rw [LzwRegs.toNat_nextWidth, if_neg (by rw [h.fit.width_of_full hfull]; omega)]
      rw [toNat_lzwReset_width hm8] at hdec
      rw [List.cons_append, List.singleton_append, lzwDecode_pfx hm h hd, hwidth, lzwDecode_clear hm8,
        hdec]
      rfl

end

/-- Settles O42: after the first `CLEAR` the decoder is where the compressor's run begins. -/
theorem lzwDecodesBack : Obligations.LzwDecodesBack := by
  intro m pixels regs codes hm hm8 hne hpixels hlzw
  obtain ⟨p, ps, rfl⟩ := List.exists_cons_of_ne_nil hne
  obtain ⟨hp, hps⟩ := List.forall_mem_cons.1 hpixels
  obtain ⟨later, hrun, rfl⟩ := lzw_cons_eq_ok m p ps regs codes hlzw
  have hdec := lzwDecode_run hm hm8 ps hps (.reset hm hm8 p hp) .cleared regs later hrun
  have hclear := lzwDecode_clear (known := []) (prev := none) hm8 (lzwReset m 0).width later
  rw [toNat_lzwReset_width hm8] at hdec hclear
  exact hclear.trans hdec

end Sys2Proof.Machine
end

section
/-! The image data and the GIF file (R208, R220): `IMGDATA`, and the run from `GHDR`, one rule per
operation. -/

namespace Sys2Proof.Machine

/-! ## `IMGDATA` -/

/-- The image data of a palette that a global colour table holds: `LZW` completes, and the registers are
what the three datapath functions leave. -/
theorem imageData_completes (n : Nat) (hn : n ≤ 256) (f : SubFrame) :
    ∃ regs codes, lzw (minCode n) (subPixels f) = .ok (regs, codes) ∧
      imageData n f = .ok (byteOf (minCode n) :: (subBlock (bitPack codes).1).1,
        { mincode := BitVec.ofNat 4 (minCode n)
          lzw := regs
          bits := (bitPack codes).2
          blk := { blk := [], blklen := 0 } }) := by
  have hcode := minCode_le_eight n hn
  obtain ⟨regs, codes, hlzw⟩ := lzw_completes (minCode n) (by omega) (subPixels f)
  refine ⟨regs, codes, hlzw, ?_⟩
  rw [imageData, hlzw, Flow.andThen, subBlock_eq_rule]

theorem imageData_eq_imageBytes (n : Nat) (hn : n ≤ 256) (f : SubFrame) :
    ∃ regs, imageData n f = .ok (imageBytes n f, regs) := by
  obtain ⟨regs, codes, -, hdata⟩ := imageData_completes n hn f
  rw [imageBytes, hdata]
  exact ⟨_, rfl⟩

theorem exec_imgdata_of_ok (s : State) (bytes : Bytes) (regs : GifRegs)
    (h : imageData (paletteLen s.ctl s.pl) (subFrame s s.pc.k.toNat) = .ok (bytes, regs)) :
    exec .imgdata s = .next { s with
      out := s.out ++ bytes
      gif := regs
      pc := gifLoopPc s s.pc (s.pc.k.toNat + 1) } := by
  rw [exec, execImgdata, h]
  exact congrArg Host.Outcome.next (gifLoop_eq_gifLoopPc _ _)

/-- Settles O45: `LZW` completes for a minimum code size of at most 8, and the loop goes on. -/
theorem imgdataAppendsImageData : Obligations.ImgdataAppendsImageData := by
  intro s n f pixels hn
  obtain ⟨regs, codes, hlzw, hdata⟩ := imageData_completes n hn f
  refine ⟨regs, codes, hlzw, minCode_le_eight n hn, ?_⟩
  rw [exec_imgdata_of_ok s _ _ hdata, gifLoopPc, ofNat_toNat_succ]
  simp only [emitsGce_iff]
  rfl

/-! ## The run -/

/-- Some number of steps from `s` appends `added` to `OUT` and leaves the program counter as given, and
nothing but these and the GIF registers has changed. -/
def GifWrites (s : State) (added : Bytes) (pc : Pc) : Prop :=
  ∃ n gif, steps n s = .next { s with out := s.out ++ added, gif := gif, pc := pc }

theorem GifWrites.start (s : State) : GifWrites s [] s.pc :=
  ⟨0, s.gif, by rw [List.append_nil]; rfl⟩

section
variable {s : State} {added : Bytes} {pc : Pc}

/-- The run goes on by the operation that `PHASE` names, which appends `b`. -/
theorem GifWrites.operation (h : GifWrites s added pc) (hq : s.host.queue = []) (i : Instr)
    (hi : decodePhase pc.phase = .ok i) (b : Bytes) (pc' : Pc)
    (hexec : ∀ gif out, ∃ gif', exec i { s with out := out, gif := gif, pc := pc } =
      .next { s with out := out ++ b, gif := gif', pc := pc' }) :
    GifWrites s (added ++ b) pc' := by
  obtain ⟨n, gif, hrun⟩ := h
  obtain ⟨gif', hlast⟩ := hexec gif (s.out ++ added)
  exact ⟨n + 1, gif', by rw [steps_succ_of_operation n s _ i hrun hq hi, hlast, List.append_assoc]⟩

theorem GifWrites.ghdr (h : GifWrites s added pc) (hq : s.host.queue = [])
    (hpc : pc.phase = phaseGhdr) :
    GifWrites s (added ++ gifHeader) { pc with phase := phaseLsd } :=
  h.operation hq .ghdr (by rw [hpc]; rfl) _ _ fun _ _ => ⟨_, exec_ghdr _⟩

theorem GifWrites.lsd (h : GifWrites s added pc) (hq : s.host.queue = [])
    (hpc : pc.phase = phaseLsd) :
    GifWrites s (added ++ lsdBytes (subFrame s 0) (paletteLen s.ctl s.pl))
      { pc with phase := phaseGct } :=
  h.operation hq .lsd (by rw [hpc]; rfl) _ _ fun _ _ => ⟨_, exec_lsd _⟩

theorem GifWrites.gct (h : GifWrites s added pc) (hq : s.host.queue = [])
    (hpc : pc.phase = phaseGct) :
    GifWrites s (added ++ gctBytes (palette s.ctl s.pl))
      (if animated s then { pc with phase := phaseAppext } else gifLoopPc s pc 0) :=
  h.operation hq .gct (by rw [hpc]; rfl) _ _ fun _ _ => ⟨_, exec_gct _⟩

theorem GifWrites.appext (h : GifWrites s added pc) (hq : s.host.queue = [])
    (hpc : pc.phase = phaseAppext) : GifWrites s (added ++ appextBytes) (gifLoopPc s pc 0) :=
  h.operation hq .appext (by rw [hpc]; rfl) _ _ fun _ _ => ⟨_, exec_appext _⟩

theorem GifWrites.gce (h : GifWrites s added pc) (hq : s.host.queue = [])
    (hpc : pc.phase = phaseGce) :
    GifWrites s (added ++ gceBytes s.par.gifDisposal s.flg.tflag (subFrame s pc.k.toNat))
      { pc with phase := phaseImgdesc } :=
  h.operation hq .gce (by rw [hpc]; rfl) _ _ fun _ _ => ⟨_, exec_gce _⟩

theorem GifWrites.imgdesc (h : GifWrites s added pc) (hq : s.host.queue = [])
    (hpc : pc.phase = phaseImgdesc) (hx : (subFrame s pc.k.toNat).x.toNat ≤ 65535)
    (hy : (subFrame s pc.k.toNat).y.toNat ≤ 65535) :
    GifWrites s (added ++ imgdescBytes (subFrame s pc.k.toNat)) { pc with phase := phaseImgdata } :=
  h.operation hq .imgdesc (by rw [hpc]; rfl) _ _ fun _ _ => ⟨_, exec_imgdesc_of_fits _ hx hy⟩

theorem GifWrites.imgdata (h : GifWrites s added pc) (hq : s.host.queue = [])
    (hpc : pc.phase = phaseImgdata) (hn : paletteLen s.ctl s.pl ≤ 256) :
    GifWrites s (added ++ imageBytes (paletteLen s.ctl s.pl) (subFrame s pc.k.toNat))
      (gifLoopPc s pc (pc.k.toNat + 1)) := by
  obtain ⟨regs, hdata⟩ := imageData_eq_imageBytes _ hn (subFrame s pc.k.toNat)
  exact h.operation hq .imgdata (by rw [hpc]; rfl) _ _ fun _ _ => ⟨_, exec_imgdata_of_ok _ _ _ hdata⟩

theorem GifWrites.trailer (h : GifWrites s added pc) (hq : s.host.queue = [])
    (hpc : pc.phase = phaseTrailer) :
    GifWrites s (added ++ [0x3B]) { pc with phase := phaseFinish } :=
  h.operation hq .trailer (by rw [hpc]; rfl) _ _ fun _ _ => ⟨_, exec_trailer _⟩

end

/-! ## The parts in a run -/

/-- What stands before the blocks of the sub-frames. -/
def gifPreamble (s : State) : Bytes :=
  gifHeader ++ lsdBytes (subFrame s 0) (paletteLen s.ctl s.pl) ++ gctBytes (palette s.ctl s.pl) ++
    if animated s then appextBytes else []

theorem gifFile_eq (s : State) :
    gifFile s = gifPreamble s ++ (List.range s.nsub.toNat).flatMap (gifSubBlocks s) ++ [0x3B] := rfl

/-- `GHDR`, `LSD`, `GCT` and `APPEXT` write what stands before the sub-frames. -/
theorem gifWrites_preamble (s : State) (hq : s.host.queue = []) (hphase : s.pc.phase = phaseGhdr) :
    ∃ pc, GifWrites s (gifPreamble s) (gifLoopPc s pc 0) := by
  have hgct := (((GifWrites.start s).ghdr hq hphase).lsd hq rfl).gct hq rfl
  unfold gifPreamble
  by_cases hanim : animated s = true
  · rw [if_pos hanim] at hgct ⊢
    exact ⟨_, hgct.appext hq rfl⟩
  · rw [if_neg hanim] at hgct ⊢
    rw [List.append_nil]
    exact ⟨_, hgct⟩

/-- `GCE` if its guard holds, `IMGDESC` and `IMGDATA` write the blocks of a sub-frame. -/
theorem gifWrites_subFrame (s : State) (hq : s.host.queue = []) (hn : paletteLen s.ctl s.pl ≤ 256)
    (added : Bytes) (pc : Pc) (k : Nat) (hk : k < s.nsub.toNat)
    (hx : (subFrame s k).x.toNat ≤ 65535) (hy : (subFrame s k).y.toNat ≤ 65535)
    (h : GifWrites s added (gifLoopPc s pc k)) :
    ∃ pc', GifWrites s (added ++ gifSubBlocks s k) (gifLoopPc s pc' (k + 1)) := by
  have hlt := s.nsub.isLt
  have hsub : (BitVec.ofNat 8 k).toNat = k := Nat.mod_eq_of_lt (by omega)
  have hdesc : GifWrites s
      (added ++ if emitsGce s then gceBytes s.par.gifDisposal s.flg.tflag (subFrame s k) else [])
      { pc with phase := phaseImgdesc, k := BitVec.ofNat 8 k } := by
    rw [gifLoopPc, if_pos hk] at h
    by_cases hgce : emitsGce s = true
    · rw [if_pos hgce] at h ⊢
      have hafter := h.gce hq rfl
      rwa [hsub] at hafter
    · rw [if_neg hgce] at h ⊢
      rwa [List.append_nil]
  have hdata := hdesc.imgdesc hq rfl (by rwa [hsub]) (by rwa [hsub])
  have hnext := hdata.imgdata hq rfl hn
  rw [hsub, List.append_assoc, List.append_assoc, ← List.append_assoc (ite _ _ _)] at hnext
  exact ⟨_, hnext⟩

/-- The loop over the sub-frames, `j` times round. -/
theorem gifWrites_loop (s : State) (hq : s.host.queue = []) (hn : paletteLen s.ctl s.pl ≤ 256)
    (hoff : ∀ k, k < s.nsub.toNat →
      (subFrame s k).x.toNat ≤ 65535 ∧ (subFrame s k).y.toNat ≤ 65535)
    (added : Bytes) (pc : Pc) (h : GifWrites s added (gifLoopPc s pc 0)) (j : Nat)
    (hj : j ≤ s.nsub.toNat) :
    ∃ pc', GifWrites s (added ++ (List.range j).flatMap (gifSubBlocks s)) (gifLoopPc s pc' j) := by
  induction j with
  | zero => exact ⟨pc, by rw [List.range_zero, List.flatMap_nil, List.append_nil]; exact h⟩
  | succ j ih =>
    obtain ⟨pc', hloop⟩ := ih (by omega)
    obtain ⟨hx, hy⟩ := hoff j hj
    rw [List.range_succ, List.flatMap_append, List.flatMap_singleton, ← List.append_assoc]
    exact gifWrites_subFrame s hq hn _ pc' j hj hx hy hloop

/-- Settles O46: what stands before the sub-frames, the loop over them, and `TRAILER`. -/
theorem gifSequenceWritesTheFile : Obligations.GifSequenceWritesTheFile := by
  intro s hq hphase hn hoff
  obtain ⟨pc, hpreamble⟩ := gifWrites_preamble s hq hphase
  obtain ⟨pc', hloop⟩ := gifWrites_loop s hq hn hoff _ pc hpreamble _ le_rfl
  rw [gifLoopPc, if_neg (lt_irrefl _)] at hloop
  obtain ⟨n, gif, hrun⟩ := hloop.trailer hq rfl
  rw [← gifFile_eq] at hrun
  exact ⟨n, _, hrun, rfl, rfl, rfl⟩

end Sys2Proof.Machine
end

section
/-! The end of a `WRITE` (R250, R261): an unsupported format ends it at once; otherwise `operationsLeft`
bounds the operations to come, and every operation of the sequence brings it down. -/

namespace Sys2Proof.Machine

/-! ## An unsupported format (R261, R266) -/

/-- Without a format a `WRITE` that is not refused goes to error entry right after R46. -/
theorem execWrite_of_no_format (fmt : BitVec 2) (s : State) (hb : s.ctl.status.state ≠ .busy)
    (hs : sentinelOk s.ctl = true) (hf : resolveFormat fmt s.ctl.defaultFmt = none) :
    execWrite fmt s = .next (raiseError eFormat 0 (acceptWrite s)) := by
  rw [execWrite, if_neg hb, if_neg (by simp [hs]), hf]

/-- Settles O6: 3 names no format, and error entry after R46 leaves the registers as stated. -/
theorem writeUnsupportedFormat : Obligations.WriteUnsupportedFormat := by
  intro s hb hsentinel
  refine ⟨_, execWrite_of_no_format 3 s hb ((sentinelOk_iff s.ctl).2 hsentinel) rfl, ?_⟩
  exact ⟨rfl, rfl, rfl, rfl, rfl, rfl, rfl, rfl, rfl, rfl, rfl, fun _ => rfl, rfl, rfl⟩

/-! ## The operations still to come (R180, R220, R250) -/

/-- How many operations a `WRITE` can still perform, this one, `i`, included: with at most 255 input
frames and 255 sub-frames, two operations for each later sub-frame in PNG and three for each in GIF. -/
def leftFrom (pc : Pc) (i : Instr) : Nat :=
  match i with
  | .validate => 1032
  | .raster => 775 + (256 - pc.fi.toNat)
  | .assemble => 775
  | .sig => 519
  | .ihdr => 518
  | .plte => 517
  | .trns => 516
  | .actl => 515
  | .fctl => 2 * (256 - pc.k.toNat) + 2
  | .idat => 513
  | .fdat => 2 * (256 - pc.k.toNat) + 1
  | .ghdr => 774
  | .lsd => 773
  | .gct => 772
  | .appext => 771
  | .gce => 3 * (256 - pc.k.toNat) + 2
  | .imgdesc => 3 * (256 - pc.k.toNat) + 1
  | .imgdata => 3 * (256 - pc.k.toNat)
  | .iend | .trailer => 2
  | .finish => 1
  | _ => 0

/-- The same for the operation that `PHASE` names. -/
def operationsLeft (pc : Pc) : Nat :=
  match decodePhase pc.phase with
  | .ok i => leftFrom pc i
  | .error _ => 0

theorem operationsLeft_of_decodePhase (pc : Pc) (i : Instr) (hi : decodePhase pc.phase = .ok i) :
    operationsLeft pc = leftFrom pc i := by
  rw [operationsLeft, hi]

theorem operationsLeft_le (pc : Pc) : operationsLeft pc ≤ 1032 := by
  rw [operationsLeft]
  split
  · unfold leftFrom
    split <;> omega
  · exact Nat.zero_le _

/-! ## The loops (R180, R220, R250) -/

/-- A loop index below a count of 8 bits fits its register. -/
theorem toNat_ofNat_of_lt (j : Nat) (n : BitVec 8) (h : j < n.toNat) : (BitVec.ofNat 8 j).toNat = j :=
  Nat.mod_eq_of_lt (h.trans n.isLt)

/-- From input frame `i` on. -/
theorem operationsLeft_rasterLoop (i : Nat) (s : State) :
    operationsLeft (rasterLoop i s).pc ≤ 775 + (256 - i) := by
  rw [rasterLoop_eq]
  dsimp only
  split_ifs with hi
  · change 775 + (256 - (BitVec.ofNat 8 i).toNat) ≤ _
    rw [toNat_ofNat_of_lt i _ hi]
  · exact Nat.le_add_right 775 _

/-- From sub-frame `k` of a PNG on. -/
theorem operationsLeft_pngLoopPc (nsub : BitVec 8) (pc : Pc) (k : Nat) :
    operationsLeft (pngLoopPc nsub pc k) ≤ 2 * (256 - k) + 2 := by
  rw [pngLoopPc]
  split_ifs with hk
  · change 2 * (256 - (BitVec.ofNat 8 k).toNat) + 2 ≤ _
    rw [toNat_ofNat_of_lt k _ hk]
  · exact Nat.le_add_left 2 _

/-- From sub-frame `k` of a GIF on. -/
theorem operationsLeft_gifLoopPc (s : State) (pc : Pc) (k : Nat) :
    operationsLeft (gifLoopPc s pc k) ≤ 3 * (256 - k) + 2 := by
  rw [gifLoopPc]
  split_ifs with hk
  · change 3 * (256 - (BitVec.ofNat 8 k).toNat) + 2 ≤ _
    rw [toNat_ofNat_of_lt k _ hk]
  · change 3 * (256 - (BitVec.ofNat 8 k).toNat) + 1 ≤ _
    rw [toNat_ofNat_of_lt k _ hk]
    exact Nat.le_succ _
  · exact Nat.le_add_left 2 _

/-! ## The operations bring the bound down -/

/-- In any phase the bound is greatest with both indices at 0. -/
theorem operationsLeft_le_start (pc : Pc) :
    operationsLeft pc ≤ operationsLeft { phase := pc.phase, fi := 0, k := 0 } := by
  unfold operationsLeft
  dsimp only
  split
  · unfold leftFrom
    split <;> simp <;> omega
  · exact le_rfl

/-- The operations outside the loops over the frames and the sub-frames; `IDAT` is the turn of sub-frame 0. -/
def outsideLoops : Instr → Bool
  | .validate | .assemble | .sig | .ihdr | .plte | .trns | .actl | .iend | .ghdr | .lsd | .gct | .appext
  | .trailer | .finish => true
  | _ => false

/-- Whatever follows such an operation is nearer to the end, wherever the indices stand. -/
theorem operationsLeft_lt_of_outsideLoops (i : Instr) (s t : State) (houtside : outsideLoops i = true)
    (hi : decodePhase s.pc.phase = .ok i) (hnext : t.pc.phase ∈ successors i s.pc.phase) :
    operationsLeft t.pc < operationsLeft s.pc := by
  have hcodes : ∀ p : BitVec 6, ∀ i ∈ (decodePhase p).toOption, outsideLoops i = true →
      ∀ p' ∈ successors i p, operationsLeft ⟨p', 0, 0⟩ < operationsLeft ⟨p, 0, 0⟩ := by decide
  calc operationsLeft t.pc
      ≤ operationsLeft ⟨t.pc.phase, 0, 0⟩ := operationsLeft_le_start t.pc
    _ < operationsLeft ⟨s.pc.phase, 0, 0⟩ :=
        hcodes s.pc.phase i (by simp [hi, Except.toOption]) houtside _ hnext
    _ = leftFrom ⟨s.pc.phase, 0, 0⟩ i := operationsLeft_of_decodePhase _ i hi
    _ = leftFrom s.pc i := by
        cases i with
        | raster | fctl | idat | fdat | gce | imgdesc | imgdata => cases houtside
        | _ => rfl
    _ = operationsLeft s.pc := (operationsLeft_of_decodePhase s.pc i hi).symm

/-- `IMGDATA` goes on with the loop over the sub-frames or raises F_LZW. -/
theorem exec_imgdata_cases (s t : State) (h : exec .imgdata s = .next t) :
    t.pc = gifLoopPc s s.pc (s.pc.k.toNat + 1) ∨ ∃ c, t = raiseFault c s := by
  obtain h | ⟨c, -, rfl⟩ := (Flow.toOutcome_eq_next _ _ _).1 h
  · obtain ⟨bg, -, h⟩ := (Flow.andThen_eq_ok _ _ _).1 h
    cases h
    exact .inl (congrArg State.pc (gifLoop_eq_gifLoopPc _ _))
  · exact .inr ⟨c, rfl⟩

/-- An operation in a loop comes before the rest of its turn and before the turns with a higher index. -/
theorem operationsLeft_lt_in_loop (i : Instr) (s t : State) (hidle : i ≠ .idle)
    (houtside : outsideLoops i = false) (hi : decodePhase s.pc.phase = .ok i) (h : exec i s = .next t)
    (hbusy : t.ctl.status.state = .busy) : operationsLeft t.pc < leftFrom s.pc i := by
  have hfi := s.pc.fi.isLt
  have hk := s.pc.k.isLt
  have henc := encode_of_decodePhase _ i hi
  cases i with
  | raster =>
    obtain ⟨g, -, rfl⟩ | ⟨c, rfl⟩ := exec_raster_cases s t h
    · have hloop := operationsLeft_rasterLoop (s.pc.fi.toNat + 1)
        { s with pl := g.pl, sets := tableSet s.sets s.pc.fi.toNat g.set }
      rw [leftFrom, rastered]
      omega
    · cases hbusy
  | fctl =>
    rw [exec_fctl] at h
    cases h
    split_ifs with hzero
    · change 513 < 2 * (256 - s.pc.k.toNat) + 2
      simp [hzero]
    · exact Nat.lt_succ_self _
  | idat =>
    rw [exec_idat] at h
    cases h
    exact Nat.lt_succ_of_le (operationsLeft_pngLoopPc s.nsub s.pc 1)
  | fdat =>
    rw [exec_fdat] at h
    cases h
    have hloop := operationsLeft_pngLoopPc s.nsub s.pc (s.pc.k.toNat + 1)
    rw [leftFrom]
    dsimp only
    omega
  | gce =>
    cases h
    exact Nat.lt_succ_self _
  | imgdesc =>
    by_cases hoff : 65535 < (subFrame s s.pc.k.toNat).x.toNat ∨ 65535 < (subFrame s s.pc.k.toNat).y.toNat
    · rw [exec_imgdesc_of_beyond s hoff] at h
      cases h
    · rw [exec_imgdesc_of_fits s (by omega) (by omega)] at h
      cases h
      exact Nat.lt_succ_self _
  | imgdata =>
    obtain hpc | ⟨c, rfl⟩ := exec_imgdata_cases s t h
    · have hloop := operationsLeft_gifLoopPc s s.pc (s.pc.k.toNat + 1)
      rw [leftFrom, hpc]
      omega
    · cases hbusy
  | idle => exact absurd rfl hidle
  | validate | assemble | sig | ihdr | plte | trns | actl | iend | ghdr | lsd | gct | appext | trailer
  | finish => cases houtside
  | _ => cases henc

/-- While the `WRITE` goes on, every operation of the sequence brings the bound down. -/
theorem operationsLeft_lt (i : Instr) (s t : State) (hidle : i ≠ .idle)
    (hi : decodePhase s.pc.phase = .ok i) (h : exec i s = .next t)
    (hbusy : t.ctl.status.state = .busy) : operationsLeft t.pc < operationsLeft s.pc := by
  by_cases houtside : outsideLoops i = true
  · cases exec_effect i s t h with
    | works w => exact operationsLeft_lt_of_outsideLoops i s t houtside hi w.phase
    | done _ ht | error _ _ _ ht | fault _ _ ht => subst ht; cases hbusy
    | unsupported _ hw | accepted _ _ hw => subst hw; cases houtside
  · rw [operationsLeft_of_decodePhase s.pc i hi]
    exact operationsLeft_lt_in_loop i s t hidle (Bool.eq_false_iff.2 houtside) hi h hbusy

/-! ## The run -/

/-- A legal BUSY block has an operation of the sequence to perform. -/
theorem SequencerInv.exists_operation {s : State} (hs : SequencerInv s)
    (hb : s.ctl.status.state = .busy) : ∃ i, decodePhase s.pc.phase = .ok i ∧ i ≠ .idle := by
  obtain ⟨⟨i, hi⟩, hnotBusy, -⟩ := hs
  refine ⟨i, hi, ?_⟩
  rintro rfl
  have hcode := encode_of_decodePhase _ _ hi
  rw [encode, Option.some.injEq, Encoded.phase.injEq] at hcode
  exact hnotBusy.1 hcode.symm hb

theorem Flow.toOutcome_ne_fault (s : State) (x : Flow State) (r : Fault) : x.toOutcome s ≠ .fault r := by
  cases x <;> exact nofun

/-- No operation stops the machine: `PALADD` and `LZW` go to fault entry (R268). -/
theorem exec_ne_fault (i : Instr) (s : State) (r : Fault) : exec i s ≠ .fault r := by
  intro h
  cases i with
  | write fmt =>
    rw [exec, execWrite] at h
    split_ifs at h
    split at h
    · cases h
    · split_ifs at h
  | validate =>
    rw [exec, execValidate] at h
    split at h <;> cases h
  | imgdesc =>
    rw [exec, execImgdesc] at h
    split_ifs at h
  | raster | imgdata | paladd | lzw => exact Flow.toOutcome_ne_fault _ _ _ h
  | _ => cases h

/-- At most `n` steps from `s` the `WRITE` has ended or was refused. -/
def EndsWithin (n : Nat) (s : State) : Prop :=
  ∃ m, m ≤ n ∧
    ((∃ t, steps m s = .next t ∧ t.ctl.status.state ≠ .busy) ∨ ∃ r, steps m s = .refused r)

theorem EndsWithin.of_next {n : Nat} {s t : State} (hstep : step s = .next t) (h : EndsWithin n t) :
    EndsWithin (n + 1) s := by
  obtain ⟨m, hm, hend⟩ := h
  refine ⟨m + 1, Nat.succ_le_succ hm, ?_⟩
  rw [steps, hstep]
  exact hend

/-- A legal BUSY block with no access to come ends its `WRITE` within the bound. -/
theorem endsWithin_of_operationsLeft_lt (n : Nat) (s : State) (hs : SequencerInv s)
    (hq : s.host.queue = []) (hb : s.ctl.status.state = .busy) (hn : operationsLeft s.pc < n) :
    EndsWithin n s := by
  induction n generalizing s with
  | zero => exact absurd hn (Nat.not_lt_zero _)
  | succ n ih =>
    obtain ⟨i, hi, hidle⟩ := hs.exists_operation hb
    have hstep : step s = exec i s := by rw [step_of_empty s hq, seqStep_of_decodePhase s i hi]
    cases hexec : exec i s with
    | fault r => exact absurd hexec (exec_ne_fault i s r)
    | refused r => exact ⟨1, by omega, .inr ⟨r, by rw [steps, hstep, hexec]⟩⟩
    | next t =>
      have hnext : step s = .next t := hstep.trans hexec
      refine EndsWithin.of_next hnext ?_
      by_cases hbusy : t.ctl.status.state = .busy
      · obtain ⟨-, -, -, -, hhost⟩ := operationsKeepInputs i s t hexec
        have hlt := operationsLeft_lt i s t hidle hi hexec hbusy
        exact ih t (sequencerStaysLegal s t hs hnext) (by rw [hhost, hq]) hbusy (by omega)
      · exact ⟨0, Nat.zero_le n, .inl ⟨t, rfl, hbusy⟩⟩

/-- Settles O54: the bound is at most 1032, and each operation brings it down. -/
theorem writeTerminates : Obligations.WriteTerminates := by
  intro s hs hq hb
  have hle := operationsLeft_le s.pc
  exact endsWithin_of_operationsLeft_lt 1100 s hs hq hb (by omega)

end Sys2Proof.Machine
end

section
/-! Error entry and fault entry (R263, R266, R268): the state after error entry, field by field, and the
fault entry of `LZW` for a minimum code size that 12-bit codes cannot hold. -/

namespace Sys2Proof.Machine

/-- Settles O9: the definition is the rule, with `phaseIdle` the code 0x00 (R98). -/
theorem errorEntryWrites : Obligations.ErrorEntryWrites := by
  intro code frame s
  rfl

/-- `CLEAR` of `m` is a code of `m + 1` bits, so from 12 on the first code is too wide (R211, R263). -/
theorem lzw_of_twelve_le (m : Nat) (hm : 12 ≤ m) (pixels : List (BitVec 8)) :
    lzw m pixels = .fault fLzw := by
  have hwide : 12 < m + 1 := Nat.lt_succ_of_le hm
  rw [lzw, if_pos hwide]

/-- A fault of the compressor is fault entry from the state that `LZW` started in (R268, log 26). -/
theorem exec_lzw_of_fault (pixels : List (BitVec 8)) (m : BitVec 4) (s : State) (e : BitVec 4)
    (h : lzw m.toNat pixels = .fault e) : exec (.lzw pixels m) s = .next (raiseFault e s) := by
  rw [exec, execLzw, h]
  rfl

/-- Settles O41: the compressor stops before its first code, and `fLzw` is the cause code 9 (R260). -/
theorem lzwFaultEntry : Obligations.LzwFaultEntry := by
  intro pixels m s hm
  have hfault := lzw_of_twelve_le m.toNat hm pixels
  exact exec_lzw_of_fault pixels m s fLzw hfault

end Sys2Proof.Machine
end

section
/-! Reset (R290, R292): the step that takes the reset input from any state, and the colour registers it
leaves. -/

namespace Sys2Proof.Machine

/-- The step of the reset input does not ask for `STATUS.STATE`, so it is the same during a `WRITE`
(R292); only the parameters and the host's later accesses come from the state before (log 10). -/
theorem step_of_reset (s : State) (q : List HostReq) (hq : s.host.queue = .reset :: q) :
    step s =
      .next { State.resetWith s.par with host := { queue := q, data := 0, outCopy := [] } } := by
  rw [step, stepOnce, hq]
  rfl

/-- The colour registers after reset (R45). -/
theorem palColour_reset (p : Config.Params) (c : ColourNo) :
    palColour (Control.reset p) c = p.palDefault.get ⟨c.toNat, c.isLt⟩ := rfl

/-- Settles O60: the step ends in the reset state of the block's parameters, which holds the values of
the rule by its definition. -/
theorem resetAtAnyMoment : Obligations.ResetAtAnyMoment := by
  intro s q hq
  have hpal := palColour_reset s.par
  exact ⟨_, step_of_reset s q hq, rfl, rfl, rfl, rfl, rfl, rfl, hpal, rfl, rfl, rfl, rfl⟩

end Sys2Proof.Machine
end
